-- ==== Sys2Proof/Word.lean ====
section
/-! DEFINITION. The plain data the block handles: bytes, 16-bit values, and the operation words of the
operation port with their three formats (30_encoding.md rules R60 to R63). -/

namespace Sys2Proof

/-- A byte: the unit of every buffer and of every operation word (10_state.md rule R11). -/
abbrev Byte := BitVec 8

/-- A 16-bit value: `acc`, `cy`, `finfo`, an entry of `PL`, an `imm16`. -/
abbrev Half := BitVec 16

/-- The three word formats: Z has no operand byte, B one, H two (rules R61 to R63). -/
inductive Format where
  | z
  | b
  | h
  deriving DecidableEq, Repr

/-- The number of bytes of a word of the format (rule R68). -/
def Format.length : Format → Nat
  | .z => 1
  | .b => 2
  | .h => 3

/-- An operation word as the host presents it: `w[0]` and up to two operand bytes. A sequence of length 0 or
above 3 "is not a word and cannot be presented" (rule R60), so this type has no such value. -/
inductive OpWord where
  | one (b0 : Byte)
  | two (b0 b1 : Byte)
  | three (b0 b1 b2 : Byte)
  deriving DecidableEq, Repr

namespace OpWord

/-- The number of bytes of the word: what IllegalOp records in `finfo` (60_exceptions.md rule R227). -/
def length : OpWord → Nat
  | .one _ => 1
  | .two _ _ => 2
  | .three _ _ _ => 3

/-- `w[0]`, the opcode byte (rule R60): what a fault records in `fop`. -/
def opcode : OpWord → Byte
  | .one b0 => b0
  | .two b0 _ => b0
  | .three b0 _ _ => b0

/-- The bytes of the word, `w[0]` first. -/
def bytes : OpWord → List Byte
  | .one b0 => [b0]
  | .two b0 b1 => [b0, b1]
  | .three b0 b1 b2 => [b0, b1, b2]

end OpWord

end Sys2Proof
end

