-- ==== Sys2Proof/Config.lean ====
section
/-! DEFINITION. The document's constants and the parameters of 00_scope.md rule R5, and the host side's open
parameters of 92_eei_decisions.md D30. -/

namespace Sys2Proof.Config

/-- `CS_INIT`, the initial value of the checksum (rule R5). -/
def csInit : Half := 0x147A

/-- `ESC`, the escape byte (rule R5). -/
def esc : Byte := 0xFE

/-- `ESC_SUB`, the second byte of an escaped `FE` (rule R5). -/
def escSub : Byte := 0xF0

/-- `HDR`, the two header bytes of a frame (rule R5). -/
def hdr : List Byte := [0xFE, 0xFE]

/-- `FTR`, the two footer bytes of a frame (rule R5). -/
def ftr : List Byte := [0xFE, 0x0D]

/-- `EV_SIZE`, the bytes of an Event record (rule R5). -/
def evSize : Nat := 14

/-- The default bitset offset (rule R5; the reset value of `boff`, 10_state.md rule R37). -/
def defaultOffset : Byte := 1

/-- The default bitset length, 128 bits, in bytes (rule R5; the reset value of `blen`, 10_state.md rule R37). -/
def defaultLength : Byte := 16

/-- The implementation parameters of the block (rule R5). `BUF_SIZE` is "an argument of the model": the machine
carries it as data (log entry 5). -/
structure Params where
  /-- `BUF_SIZE`, the capacity in bytes of `IB` and of `OB`. -/
  bufSize : Nat
  deriving DecidableEq, Repr

/-- `BUF_SIZE` at its default, 256 (rule R5). -/
def Params.default : Params := { bufSize := 256 }

/-- `PL_SIZE`, "fixed at `8 * BUF_SIZE`" (rule R5). -/
def Params.plSize (p : Params) : Nat := 8 * p.bufSize

/-- The constraint `100 <= BUF_SIZE <= 8160` (rule R5). -/
def Params.wf (p : Params) : Bool := decide (100 ≤ p.bufSize ∧ p.bufSize ≤ 8160)

/-- Host side only: `CODEPAGE`, "a configurable single-byte text codepage" (45_host_protocol.md rule R203,
92_eei_decisions.md D30). Open: no value is known. -/
opaque codepage : Byte → Char

/-- Host side only: which decoded characters are "trailing padding/whitespace" of a name (45_host_protocol.md
rule R203). Open: the padding character is not in the source (91_not_in_source.md N11). -/
opaque isPadding : Char → Bool

/-- Host side only: `TYPE_TABLE`, the device type names (45_host_protocol.md rule R203, 92_eei_decisions.md D30).
Open: the table is not in the source (91_not_in_source.md N10). -/
opaque typeTable : Byte → Option String

end Sys2Proof.Config
end

