-- ==== Sys2Proof/Machine/State.lean ====
section
/-! DEFINITION. The state of the block (10_state.md), the two fields of the model's own, the fault kinds of
60_exceptions.md rule R220, the ways a step could stop, and the state after reset (10_state.md rule R37). -/

namespace Sys2Proof.Machine

/-- The event record register `ER`, 14 bytes `ER[0]` to `ER[13]` (rule R13). -/
structure EventRecord where
  b0 : Byte
  b1 : Byte
  b2 : Byte
  b3 : Byte
  b4 : Byte
  b5 : Byte
  b6 : Byte
  b7 : Byte
  b8 : Byte
  b9 : Byte
  b10 : Byte
  b11 : Byte
  b12 : Byte
  b13 : Byte
  deriving DecidableEq, Repr

/-- What the outside presents to the block: an operation word at the operation port (30_encoding.md rule R60), or
its reset input asserted (70_reset_and_hazards.md rule R250; log entry 4). -/
inductive Input where
  | word (w : OpWord)
  | resetLine
  deriving DecidableEq, Repr

/-- The state between two operations (rule R35). The first twelve fields are the spec's; `params` and `inputs` are
the model's own. -/
structure State where
  /-- `acc`, the checksum accumulator (rule R10). -/
  acc : Half
  /-- `IB`, the input buffer (rule R11). -/
  ib : List Byte
  /-- `OB`, the output buffer (rule R12). -/
  ob : List Byte
  /-- `ER`, the event record register (rule R13). -/
  er : EventRecord
  /-- `ercnt`, how many bytes of `ER` came from input (rule R13). -/
  ercnt : BitVec 4
  /-- `cy`, the current year (rule R14). -/
  cy : Half
  /-- `boff`, the bitset offset (rule R15). -/
  boff : Byte
  /-- `blen`, the bitset buffer length in bytes (rule R15). -/
  blen : Byte
  /-- `PL`, the position list (rule R16). -/
  pl : List Half
  /-- `flt`, the fault code, 0 for none (rule R36). -/
  flt : Byte
  /-- `fop`, the opcode byte of the operation that faulted (rule R36). -/
  fop : Byte
  /-- `finfo`, the value the fault records (rule R36). -/
  finfo : Half
  /-- MODEL: the parameter `BUF_SIZE` (00_scope.md rule R5), which nothing changes (log entry 5). -/
  params : Config.Params
  /-- MODEL: what the outside will present, first first (30_encoding.md rule R60; log entry 2). -/
  inputs : List Input
  deriving DecidableEq, Repr

/-- The block's own faults, the values of `flt` (60_exceptions.md rule R220). They are latched in State and the
machine goes on (halted); none of them is a `Fault` of a step. -/
inductive FaultKind where
  | framingError
  | checksumError
  | escapeError
  | bufferOverflow
  | rangeError
  | illegalOp
  deriving DecidableEq, Repr

/-- A fault with the value it records: `raise <Fault>(info)` of 00_scope.md rule R7. -/
structure FaultInfo where
  kind : FaultKind
  info : Nat
  deriving DecidableEq, Repr

/-- The ways a step could stop with a fault: none. Every fault of the block is latched in `flt`, `fop`, `finfo` and
is a next state (60_exceptions.md rules R232, R233; log entry 6). No constructor raises, so nothing is unsafe. -/
inductive Fault where
  deriving DecidableEq, Repr

/-- The ways a step could be refused. -/
inductive Refusal where
  /-- Raised by an arm of `exec` whose instruction has no meaning yet; no arm raises it now. Safe: the model stops
  where the block would go on. -/
  | notModelled (mnemonic : String)
  deriving DecidableEq, Repr

/-- The reset values of 10_state.md rule R37, for given parameters and given inputs still to come. -/
def State.resetWith (params : Config.Params) (inputs : List Input) : State where
  acc := Config.csInit
  ib := []
  ob := []
  er := { b0 := 0, b1 := 0, b2 := 0, b3 := 0, b4 := 0, b5 := 0, b6 := 0, b7 := 0, b8 := 0, b9 := 0, b10 := 0,
          b11 := 0, b12 := 0, b13 := 0 }
  ercnt := 0
  cy := 0
  boff := Config.defaultOffset
  blen := Config.defaultLength
  pl := []
  flt := 0
  fop := 0
  finfo := 0
  params := params
  inputs := inputs

/-- The machine right after reset: the values of 10_state.md rule R37, `BUF_SIZE` at the spec's default
(00_scope.md rule R5; log entry 5) and nothing presented at the port (log entry 2). -/
def State.reset : State := State.resetWith Config.Params.default []

end Sys2Proof.Machine
end

