-- ==== Sys2Proof/Machine/Flags.lean ====
section
/-! DEFINITION. The block's status. It has "no condition codes, no carry, no overflow flag and no predicate
registers" (10_state.md rule R19), so no operation computes a flag; "the only status the block keeps is the fault
register group" and `ercnt`. -/

namespace Sys2Proof.Machine

/-- The value of `flt` for a fault (60_exceptions.md rule R220). -/
def FaultKind.code : FaultKind → Byte
  | .framingError => 1
  | .checksumError => 2
  | .escapeError => 3
  | .bufferOverflow => 4
  | .rangeError => 5
  | .illegalOp => 6

/-- The block is halted while `flt` is not 0 (10_state.md rule R36, 60_exceptions.md rule R233). -/
def State.halted (s : State) : Bool := s.flt != 0

/-- Byte `k` of `ER` was loaded from input "exactly when `ercnt` > `k`" (43_event_record.md rule R143). -/
def State.loaded (s : State) (k : Nat) : Bool := decide (k < s.ercnt.toNat)

end Sys2Proof.Machine
end

