-- ==== Sys2Proof/Syntax.lean ====
section
/-! DEFINITION. The 23 operations of 30_encoding.md rule R66, one constructor each, in the table's order. -/

namespace Sys2Proof

/-- An operation with its operands (rule R66). `imm8` is one byte, `imm16` the two operand bytes most significant
first, `f` and `l` two separate counts (rule R65). Every operand value is legal (rule R67). -/
inductive Instr where
  | nop
  | rst
  | ibClr
  | ibPush (imm8 : Byte)
  | bufMov
  | ibTrim (f l : Byte)
  | csInit
  | csStep (imm8 : Byte)
  | csBuf
  | csAppend
  | csVerify
  | frEsc
  | frUnesc
  | frEnc
  | frDec
  | evLoad
  | evSetyear (imm16 : Half)
  | bsSetoff (imm8 : Byte)
  | bsSetlen (imm8 : Byte)
  | plClr
  | plPush (imm16 : Half)
  | bsScan
  | bsPack
  deriving DecidableEq, Repr

/-- The mnemonic of rule R66, as spec/opcode_table.json spells it. -/
def Instr.mnemonic : Instr → String
  | .nop => "NOP"
  | .rst => "RST"
  | .ibClr => "IB.CLR"
  | .ibPush _ => "IB.PUSH"
  | .bufMov => "BUF.MOV"
  | .ibTrim _ _ => "IB.TRIM"
  | .csInit => "CS.INIT"
  | .csStep _ => "CS.STEP"
  | .csBuf => "CS.BUF"
  | .csAppend => "CS.APPEND"
  | .csVerify => "CS.VERIFY"
  | .frEsc => "FR.ESC"
  | .frUnesc => "FR.UNESC"
  | .frEnc => "FR.ENC"
  | .frDec => "FR.DEC"
  | .evLoad => "EV.LOAD"
  | .evSetyear _ => "EV.SETYEAR"
  | .bsSetoff _ => "BS.SETOFF"
  | .bsSetlen _ => "BS.SETLEN"
  | .plClr => "PL.CLR"
  | .plPush _ => "PL.PUSH"
  | .bsScan => "BS.SCAN"
  | .bsPack => "BS.PACK"

end Sys2Proof
end

