-- ==== Sys2Proof/WellFormed.lean ====
section
/-! DEFINITION. What is well formed at the operation port: a word that matches a row of the opcode table
(30_encoding.md rules R64, R66, R67). The table is written here row by row as length, match and mask, apart from
the decoder of Sys2Proof/Decode.lean. An `Instr` needs no check of its own: "every operand value 0 to 255 (or 0 to
65535) is legal in every operand field" (rule R67), and the constructors' operand types hold exactly those values.
The parameter check is `Config.Params.wf`. -/

namespace Sys2Proof

/-- One row of the opcode table (rule R64): `pattern` and `mask` are over the word read as one big-endian number. -/
structure OpcodeRow where
  mnemonic : String
  format : Format
  pattern : Nat
  mask : Nat
  deriving DecidableEq, Repr

/-- The word as one big-endian number of `8 * length` bits, `w[0]` most significant (rule R64). -/
def OpWord.number : OpWord → Nat
  | .one b0 => b0.toNat
  | .two b0 b1 => b0.toNat * 256 + b1.toNat
  | .three b0 b1 b2 => b0.toNat * 65536 + b1.toNat * 256 + b2.toNat

/-- The rows of units 0 and 1, control and checksum (rule R66). -/
def opcodeRowsControlChecksum : List OpcodeRow :=
  [ ⟨"NOP", .z, 0x00, 0xFF⟩, ⟨"RST", .z, 0x01, 0xFF⟩, ⟨"IB.CLR", .z, 0x02, 0xFF⟩,
    ⟨"IB.PUSH", .b, 0x0300, 0xFF00⟩, ⟨"BUF.MOV", .z, 0x04, 0xFF⟩, ⟨"IB.TRIM", .h, 0x050000, 0xFF0000⟩,
    ⟨"CS.INIT", .z, 0x10, 0xFF⟩, ⟨"CS.STEP", .b, 0x1100, 0xFF00⟩, ⟨"CS.BUF", .z, 0x12, 0xFF⟩,
    ⟨"CS.APPEND", .z, 0x13, 0xFF⟩, ⟨"CS.VERIFY", .z, 0x14, 0xFF⟩ ]

/-- The rows of units 2, 3 and 4, framer, event record and bitset (rule R66). -/
def opcodeRowsFramerEventBitset : List OpcodeRow :=
  [ ⟨"FR.ESC", .z, 0x20, 0xFF⟩, ⟨"FR.UNESC", .z, 0x21, 0xFF⟩, ⟨"FR.ENC", .z, 0x22, 0xFF⟩,
    ⟨"FR.DEC", .z, 0x23, 0xFF⟩, ⟨"EV.LOAD", .z, 0x30, 0xFF⟩, ⟨"EV.SETYEAR", .h, 0x310000, 0xFF0000⟩,
    ⟨"BS.SETOFF", .b, 0x4000, 0xFF00⟩, ⟨"BS.SETLEN", .b, 0x4100, 0xFF00⟩, ⟨"PL.CLR", .z, 0x42, 0xFF⟩,
    ⟨"PL.PUSH", .h, 0x430000, 0xFF0000⟩, ⟨"BS.SCAN", .z, 0x44, 0xFF⟩, ⟨"BS.PACK", .z, 0x45, 0xFF⟩ ]

/-- The opcode table, 23 rows (rule R66). -/
def opcodeTable : List OpcodeRow := opcodeRowsControlChecksum ++ opcodeRowsFramerEventBitset

/-- "A word matches a row when its length equals the row's `length` and `(word & mask) == match`" (rule R64). -/
def OpcodeRow.accepts (r : OpcodeRow) (w : OpWord) : Bool :=
  decide (w.length = r.format.length) && decide (w.number &&& r.mask = r.pattern)

/-- A legal word: some row accepts it (rule R67). -/
def OpWord.legal (w : OpWord) : Bool := opcodeTable.any (fun r => r.accepts w)

end Sys2Proof
end

