-- ==== Sys2Proof/Decode.lean ====
section
/-! DEFINITION. Decoding of operation words, total on every byte sequence and rejecting by name, the encoder, and
the splitting of a byte string into words (30_encoding.md rules R60 to R68). -/

namespace Sys2Proof

/-- Why a byte sequence is no operation. At the port both kinds of illegal word raise IllegalOp
(60_exceptions.md rule R227), and a sequence that is no word cannot be presented (rule R60). -/
inductive DecodeError where
  /-- The opcode byte is in no row of rule R66. -/
  | unknownOpcode (opcode : Byte)
  /-- The opcode byte is in rule R66, but its format has another length. -/
  | wrongLength (opcode : Byte) (length : Nat)
  /-- A sequence of length 0 or above 3. -/
  | notAWord (length : Nat)
  deriving DecidableEq, Repr

/-- The high byte `v[15:8]`. -/
def hiByte (v : Half) : Byte := v.extractLsb' 8 8

/-- The low byte `v[7:0]`. -/
def loByte (v : Half) : Byte := v.extractLsb' 0 8

/-- Two operand bytes as `imm16 = b1 * 256 + b2`, most significant byte first (rule R65). -/
def imm16 (b1 b2 : Byte) : Half := BitVec.ofNat 16 (b1.toNat * 256 + b2.toNat)

/-- The format an opcode byte selects, by which the length of a word is fixed (rules R66, R68). -/
def formatOf (op : Byte) : Option Format :=
  match op with
  | 0x00#8 | 0x01#8 | 0x02#8 | 0x04#8 => some .z
  | 0x03#8 => some .b
  | 0x05#8 => some .h
  | 0x10#8 | 0x12#8 | 0x13#8 | 0x14#8 => some .z
  | 0x11#8 => some .b
  | 0x20#8 | 0x21#8 | 0x22#8 | 0x23#8 => some .z
  | 0x30#8 => some .z
  | 0x31#8 => some .h
  | 0x40#8 | 0x41#8 => some .b
  | 0x42#8 | 0x44#8 | 0x45#8 => some .z
  | 0x43#8 => some .h
  | _ => none

/-- The operations of format Z (rules R61, R66). -/
def decodeZ (op : Byte) : Option Instr :=
  match op with
  | 0x00#8 => some .nop
  | 0x01#8 => some .rst
  | 0x02#8 => some .ibClr
  | 0x04#8 => some .bufMov
  | 0x10#8 => some .csInit
  | 0x12#8 => some .csBuf
  | 0x13#8 => some .csAppend
  | 0x14#8 => some .csVerify
  | 0x20#8 => some .frEsc
  | 0x21#8 => some .frUnesc
  | 0x22#8 => some .frEnc
  | 0x23#8 => some .frDec
  | 0x30#8 => some .evLoad
  | 0x42#8 => some .plClr
  | 0x44#8 => some .bsScan
  | 0x45#8 => some .bsPack
  | _ => none

/-- The operations of format B, with `imm8` (rules R62, R65, R66). -/
def decodeB (op imm8 : Byte) : Option Instr :=
  match op with
  | 0x03#8 => some (.ibPush imm8)
  | 0x11#8 => some (.csStep imm8)
  | 0x40#8 => some (.bsSetoff imm8)
  | 0x41#8 => some (.bsSetlen imm8)
  | _ => none

/-- The operations of format H, with `b1` and `b2` (rules R63, R65, R66). -/
def decodeH (op b1 b2 : Byte) : Option Instr :=
  match op with
  | 0x05#8 => some (.ibTrim b1 b2)
  | 0x31#8 => some (.evSetyear (imm16 b1 b2))
  | 0x43#8 => some (.plPush (imm16 b1 b2))
  | _ => none

/-- The operation of a word, by its length (rules R61 to R63); none for an illegal word (rule R67). -/
def decodeWord : OpWord → Option Instr
  | .one op => decodeZ op
  | .two op imm8 => decodeB op imm8
  | .three op b1 b2 => decodeH op b1 b2

/-- Which kind of illegal word this is (rule R67). -/
def illegalWord (w : OpWord) : DecodeError :=
  if (formatOf w.opcode).isNone then .unknownOpcode w.opcode else .wrongLength w.opcode w.length

/-- The decoder, "total on every byte sequence of length 1 to 3" (rule R67). -/
def decode (w : OpWord) : Except DecodeError Instr :=
  match decodeWord w with
  | some i => .ok i
  | none => .error (illegalWord w)

/-- A byte sequence as a word, when it is one (rule R60). -/
def OpWord.ofBytes : List Byte → Option OpWord
  | [b0] => some (.one b0)
  | [b0, b1] => some (.two b0 b1)
  | [b0, b1, b2] => some (.three b0 b1 b2)
  | _ => none

/-- Decoding of any byte sequence: a word is decoded, any other sequence is rejected by name (rule R60). -/
def decodeBytes (S : List Byte) : Except DecodeError Instr :=
  match OpWord.ofBytes S with
  | some w => decode w
  | none => .error (.notAWord S.length)

/-- The encoder: the word of an operation (rules R61 to R66). -/
def encode : Instr → OpWord
  | .nop => .one 0x00
  | .rst => .one 0x01
  | .ibClr => .one 0x02
  | .ibPush v => .two 0x03 v
  | .bufMov => .one 0x04
  | .ibTrim f l => .three 0x05 f l
  | .csInit => .one 0x10
  | .csStep v => .two 0x11 v
  | .csBuf => .one 0x12
  | .csAppend => .one 0x13
  | .csVerify => .one 0x14
  | .frEsc => .one 0x20
  | .frUnesc => .one 0x21
  | .frEnc => .one 0x22
  | .frDec => .one 0x23
  | .evLoad => .one 0x30
  | .evSetyear v => .three 0x31 (hiByte v) (loByte v)
  | .bsSetoff v => .two 0x40 v
  | .bsSetlen v => .two 0x41 v
  | .plClr => .one 0x42
  | .plPush v => .three 0x43 (hiByte v) (loByte v)
  | .bsScan => .one 0x44
  | .bsPack => .one 0x45

/-- The opcode byte of an operation, `w[0]` of its word. -/
def Instr.opcode (i : Instr) : Byte := (encode i).opcode

/-- A byte string of words back to back, taken apart from its first byte on: an opcode byte fixes how many bytes
its word has, and "an illegal opcode byte is taken as a one-byte word" (rule R68). Where the string ends inside a
word, the bytes that are left are taken as the last word (DESIGN CHOICE, log entry 8). -/
def splitWords : List Byte → List OpWord
  | [] => []
  | [b0] => [.one b0]
  | [b0, b1] =>
    match formatOf b0 with
    | some .b | some .h => [.two b0 b1]
    | some .z | none => [.one b0, .one b1]
  | b0 :: b1 :: b2 :: rest =>
    match formatOf b0 with
    | some .h => .three b0 b1 b2 :: splitWords rest
    | some .b => .two b0 b1 :: splitWords (b2 :: rest)
    | some .z | none => .one b0 :: splitWords (b1 :: b2 :: rest)

/-- The word whose bits are `w` in the numbering of spec/opcode_table.json: one big-endian number of `nbits` bits,
the opcode byte highest (rule R64; log entry 1). A word has 8, 16 or 24 bits. -/
def OpWord.ofBits (nbits w : Nat) : Option OpWord :=
  match nbits with
  | 8 => some (.one (BitVec.ofNat 8 w))
  | 16 => some (.two (BitVec.ofNat 8 (w / 256)) (BitVec.ofNat 8 w))
  | 24 => some (.three (BitVec.ofNat 8 (w / 65536)) (BitVec.ofNat 8 (w / 256)) (BitVec.ofNat 8 w))
  | _ => none

/-- The operation the decoder reads from the word whose bits are `w` (the host's question; log entry 1). -/
def decodeTableWord (nbits w : Nat) : Option Instr :=
  match OpWord.ofBits nbits w with
  | some ow => (decode ow).toOption
  | none => none

end Sys2Proof
end

