-- ==== Sys2Proof/Machine/Operands.lean ====
section
/-! DEFINITION. How operations reach their operands: whole buffers, slices of them, single bytes, two-byte values
(00_scope.md rule R7, 20_memory.md rules R40 to R47). No operand of an operation word names an index or an address;
`imm8`, `imm16`, `f` and `l` come from the decoder (30_encoding.md rule R65). -/

namespace Sys2Proof.Machine

/-- `BUF_SIZE` of this block (00_scope.md rule R5). -/
def State.bufSize (s : State) : Nat := s.params.bufSize

/-- `PL_SIZE` of this block (00_scope.md rule R5). -/
def State.plSize (s : State) : Nat := s.params.plSize

/-- `S[a..b)`: the indexes `a` up to but not including `b`, empty when `a >= b` (00_scope.md rule R7). -/
def slice (S : List Byte) (a b : Nat) : List Byte := (S.drop a).take (b - a)

/-- Byte `i` of `S`, zero where `S` has no byte `i`: the zero fill of `EV.LOAD` (43_event_record.md rule R140) and
the reading of one byte under a bound the caller has tested. -/
def byteAt (S : List Byte) (i : Nat) : Byte := S.getD i 0

/-- `be16(v)`: the two bytes `v[15:8]`, `v[7:0]` (20_memory.md rule R44). -/
def be16 (v : Half) : List Byte := [hiByte v, loByte v]

/-- The 16-bit value at index `i`, big-endian: `S[i] * 256 + S[i+1]` (20_memory.md rule R44). -/
def half16At (S : List Byte) (i : Nat) : Half := imm16 (byteAt S i) (byteAt S (i + 1))

/-- Bit `i mod 8` of byte `i div 8`, bit 0 the least significant (20_memory.md rule R46). -/
def bitAt (S : List Byte) (i : Nat) : Bool := (byteAt S (i / 8)).getLsbD (i % 8)

/-- `S` with bit `i mod 8` of byte `i div 8` set (20_memory.md rule R46, 44_bitset.md rule R171). -/
def setBitAt (S : List Byte) (i : Nat) : List Byte := S.modify (i / 8) (fun b => b ||| (1#8 <<< (i % 8)))

/-- `ER[k]` (10_state.md rule R13); the register has bytes 0 to 13, and no operation reads beyond them. -/
def EventRecord.byte (r : EventRecord) (k : Nat) : Byte :=
  match k with
  | 0 => r.b0
  | 1 => r.b1
  | 2 => r.b2
  | 3 => r.b3
  | 4 => r.b4
  | 5 => r.b5
  | 6 => r.b6
  | 7 => r.b7
  | 8 => r.b8
  | 9 => r.b9
  | 10 => r.b10
  | 11 => r.b11
  | 12 => r.b12
  | 13 => r.b13
  | _ => 0

/-- The record whose byte `k` is byte `k` of `S`, zero where `S` is too short (43_event_record.md rule R140). -/
def EventRecord.ofBytes (S : List Byte) : EventRecord where
  b0 := byteAt S 0
  b1 := byteAt S 1
  b2 := byteAt S 2
  b3 := byteAt S 3
  b4 := byteAt S 4
  b5 := byteAt S 5
  b6 := byteAt S 6
  b7 := byteAt S 7
  b8 := byteAt S 8
  b9 := byteAt S 9
  b10 := byteAt S 10
  b11 := byteAt S 11
  b12 := byteAt S 12
  b13 := byteAt S 13

/-- The host's read of one byte of `IB`, defined only below the length (00_scope.md rule R7, 10_state.md rule R34). -/
def State.readIb (s : State) (i : Nat) : Option Byte := s.ib[i]?

/-- The host's read of one byte of `OB` (00_scope.md rule R7, 10_state.md rule R34). -/
def State.readOb (s : State) (i : Nat) : Option Byte := s.ob[i]?

/-- The host's read of one entry of `PL` (20_memory.md rule R42, 10_state.md rule R34). -/
def State.readPl (s : State) (j : Nat) : Option Half := s.pl[j]?

/-- The host's read of one byte of `ER`, defined for indexes 0 to 13 (20_memory.md rule R42). -/
def State.readEr (s : State) (k : Nat) : Option Byte := if k < Config.evSize then some (s.er.byte k) else none

end Sys2Proof.Machine
end

