-- ==== Sys2Proof/Machine/Ops.lean ====
section
/-! DEFINITION. The shared operations: the writes to each piece of state, taking a fault and leaving it, and the
frame every operation runs in (halt check, then effect or fault). -/

namespace Sys2Proof.Machine

/-- `acc <- v`. -/
def State.setAcc (s : State) (v : Half) : State := { s with acc := v }

/-- `IB <- S`, content and length (00_scope.md rule R7). -/
def State.setIb (s : State) (S : List Byte) : State := { s with ib := S }

/-- `OB <- S`, content and length (20_memory.md rule R41). -/
def State.setOb (s : State) (S : List Byte) : State := { s with ob := S }

/-- `ER` and `ercnt` together, as `EV.LOAD` writes them (10_state.md rule R13). -/
def State.setEr (s : State) (r : EventRecord) (n : BitVec 4) : State := { s with er := r, ercnt := n }

/-- `cy <- v`. -/
def State.setCy (s : State) (v : Half) : State := { s with cy := v }

/-- `boff <- v`. -/
def State.setBoff (s : State) (v : Byte) : State := { s with boff := v }

/-- `blen <- v`. -/
def State.setBlen (s : State) (v : Byte) : State := { s with blen := v }

/-- `PL <- P`. -/
def State.setPl (s : State) (P : List Half) : State := { s with pl := P }

/-- The fault register group (10_state.md rule R36). -/
def State.setFault (s : State) (code op : Byte) (info : Half) : State :=
  { s with flt := code, fop := op, finfo := info }

/-- The inputs still to come (log entry 2). -/
def State.setInputs (s : State) (l : List Input) : State := { s with inputs := l }

/-- Fault entry: `flt` takes the code, `fop` the word's first byte `op`, `finfo` the information modulo 2^16, "and
nothing else changes" (60_exceptions.md rule R232). -/
def raise (op : Byte) (e : FaultInfo) (s : State) : State :=
  s.setFault e.kind.code op (BitVec.ofNat 16 e.info)

/-- Reset, by `RST` or by the reset input: every piece of the block's state at the value of 10_state.md rule R37
(70_reset_and_hazards.md rule R250). It is also the one way out of a fault (60_exceptions.md rule R235). The
parameters and the inputs still to come are no state of the block and stay. -/
def State.resetBlock (s : State) : State := State.resetWith s.params s.inputs

/-- The frame of an operation: "Halt check first: if `flt` is not 0 and the operation is not `RST`, the operation
changes nothing at all" (40_control_buffer.md rule R90 (a)); otherwise its effect. -/
def operate (s : State) (effect : State → State) : Host.Outcome State Fault Refusal :=
  .next (if s.halted then s else effect s)

/-- The frame of an operation that can fault: its effect, or fault entry with its opcode byte, and nothing of the
effect then (40_control_buffer.md rule R90 (d), 60_exceptions.md rule R232). -/
def attempt (op : Byte) (s : State) (effect : State → Except FaultInfo State) :
    Host.Outcome State Fault Refusal :=
  operate s (fun s0 =>
    match effect s0 with
    | .ok t => t
    | .error e => raise op e s0)

/-- IllegalOp: the fault of a word that is illegal, after the halt check; `finfo` is the length of the word
(60_exceptions.md rules R227, R231, R233). -/
def takeIllegalOp (w : OpWord) (s : State) : Host.Outcome State Fault Refusal :=
  operate s (raise w.opcode { kind := .illegalOp, info := w.length })

end Sys2Proof.Machine
end

