-- ==== Sys2Proof/Machine/Bitset.lean ====
section
/-! DEFINITION. The bitset codec: `positions`, `pack` and the operations `BS.SETOFF`, `BS.SETLEN`, `PL.CLR`,
`PL.PUSH`, `BS.SCAN`, `BS.PACK` (44_bitset.md). -/

namespace Sys2Proof.Machine

/-- `positions(B, off)`: all `i + off` with bit `i` of `B` set, ascending (rule R170). Entries have 16 bits; with a
buffer within `BUF_SIZE` none needs more (rule R176; log entry 10). -/
def positions (B : List Byte) (off : Nat) : List Half :=
  ((List.range (8 * B.length)).filter (fun i => bitAt B i)).map (fun i => BitVec.ofNat 16 (i + off))

/-- Position `p` lies in `[off, off + 8n - 1]`, an empty range when `n` = 0 (rule R171). -/
def inRange (n off : Nat) (p : Half) : Bool := decide (off ≤ p.toNat ∧ p.toNat < off + 8 * n)

/-- `pack(P, n, off)`: `n` zero bytes with bit `p - off` set for each `p` of `P`, or RangeError with the first
entry in list order that is out of range (rule R171). -/
def pack (P : List Half) (n off : Nat) : Except FaultInfo (List Byte) :=
  match P.find? (fun p => !inRange n off p) with
  | some p => .error { kind := .rangeError, info := p.toNat }
  | none => .ok (P.foldl (fun B p => setBitAt B (p.toNat - off)) (List.replicate n 0))

/-- `BS.SETOFF imm8` (rule R172). -/
def execBsSetoff (imm8 : Byte) (s : State) : Host.Outcome State Fault Refusal :=
  operate s (fun s => s.setBoff imm8)

/-- `BS.SETLEN imm8` (rule R173). -/
def execBsSetlen (imm8 : Byte) (s : State) : Host.Outcome State Fault Refusal :=
  operate s (fun s => s.setBlen imm8)

/-- `PL.CLR` (rule R174). -/
def execPlClr (s : State) : Host.Outcome State Fault Refusal :=
  operate s (fun s => s.setPl [])

/-- `PL.PUSH imm16` (rule R175). -/
def execPlPush (imm16 : Half) (s : State) : Host.Outcome State Fault Refusal :=
  attempt (Instr.opcode (.plPush imm16)) s (fun s =>
    if s.pl.length = s.plSize then .error { kind := .bufferOverflow, info := s.pl.length + 1 }
    else .ok (s.setPl (s.pl ++ [imm16])))

/-- `BS.SCAN` (rule R176). -/
def execBsScan (s : State) : Host.Outcome State Fault Refusal :=
  operate s (fun s => s.setPl (positions s.ib s.boff.toNat))

/-- `BS.PACK` (rule R177). -/
def execBsPack (s : State) : Host.Outcome State Fault Refusal :=
  attempt (Instr.opcode .bsPack) s (fun s =>
    if s.blen.toNat > s.bufSize then .error { kind := .bufferOverflow, info := s.blen.toNat }
    else (pack s.pl s.blen.toNat s.boff.toNat).map s.setOb)

end Sys2Proof.Machine
end

