-- ==== Sys2Proof/Machine/Checksum.lean ====
section
/-! DEFINITION. The checksum unit: `rotl16`, `cs_step`, `checksum` and the operations `CS.INIT`, `CS.STEP`,
`CS.BUF`, `CS.APPEND`, `CS.VERIFY` (41_checksum.md). -/

namespace Sys2Proof.Machine

/-- `rotl16(v) = ((v << 1) | (v >> 15)) mod 2^16` (rule R100). -/
def rotl16 (v : Half) : Half := (v <<< 1) ||| (v >>> 15)

/-- `cs_step(a, b)`: rotate, complement, then add the complemented value's high byte and `b` (rule R101). -/
def csStep (a : Half) (b : Byte) : Half :=
  let t2 := ~~~(rotl16 a)
  t2 + (t2 >>> 8) + b.setWidth 16

/-- `checksum(S)`: from `0x147A`, one step for each byte in order (rule R102). -/
def checksum (S : List Byte) : Half := S.foldl csStep Config.csInit

/-- The checksum test of `CS.VERIFY` on a payload: the computed checksum, or ChecksumError with it (rule R109). -/
def verifyPayload (S : List Byte) : Except FaultInfo Half :=
  let n := S.length
  if n < 2 then .error { kind := .checksumError, info := Config.csInit.toNat }
  else
    let c := checksum (slice S 0 (n - 2))
    if c ≠ half16At S (n - 2) then .error { kind := .checksumError, info := c.toNat }
    else .ok c

/-- `CS.INIT` (rule R105). -/
def execCsInit (s : State) : Host.Outcome State Fault Refusal :=
  operate s (fun s => s.setAcc Config.csInit)

/-- `CS.STEP imm8` (rule R106). -/
def execCsStep (imm8 : Byte) (s : State) : Host.Outcome State Fault Refusal :=
  operate s (fun s => s.setAcc (csStep s.acc imm8))

/-- `CS.BUF` (rule R107). -/
def execCsBuf (s : State) : Host.Outcome State Fault Refusal :=
  operate s (fun s => s.setAcc (checksum s.ib))

/-- `CS.APPEND` (rule R108). -/
def execCsAppend (s : State) : Host.Outcome State Fault Refusal :=
  attempt (Instr.opcode .csAppend) s (fun s =>
    if s.ib.length + 2 > s.bufSize then .error { kind := .bufferOverflow, info := s.ib.length + 2 }
    else .ok (s.setIb (s.ib ++ be16 s.acc)))

/-- `CS.VERIFY` (rule R109). -/
def execCsVerify (s : State) : Host.Outcome State Fault Refusal :=
  attempt (Instr.opcode .csVerify) s (fun s =>
    (verifyPayload s.ib).map s.setAcc)

end Sys2Proof.Machine
end

