-- ==== Sys2Proof/Machine/Control.lean ====
section
/-! DEFINITION. The control and buffer operations `NOP`, `RST`, `IB.CLR`, `IB.PUSH`, `BUF.MOV`, `IB.TRIM`
(40_control_buffer.md). -/

namespace Sys2Proof.Machine

/-- `S` without its first `f` and last `l` bytes, empty when there are not more than `f + l` (rule R96). -/
def trim (S : List Byte) (f l : Nat) : List Byte :=
  if f + l ≥ S.length then [] else slice S f (S.length - l)

/-- `NOP` (rule R91). -/
def execNop (s : State) : Host.Outcome State Fault Refusal :=
  operate s (fun s => s)

/-- `RST`, the one operation that executes while the block is halted (rule R92). -/
def execRst (s : State) : Host.Outcome State Fault Refusal :=
  .next s.resetBlock

/-- `IB.CLR` (rule R93). -/
def execIbClr (s : State) : Host.Outcome State Fault Refusal :=
  operate s (fun s => s.setIb [])

/-- `IB.PUSH imm8` (rule R94). -/
def execIbPush (imm8 : Byte) (s : State) : Host.Outcome State Fault Refusal :=
  attempt (Instr.opcode (.ibPush imm8)) s (fun s =>
    if s.ib.length = s.bufSize then .error { kind := .bufferOverflow, info := s.ib.length + 1 }
    else .ok (s.setIb (s.ib ++ [imm8])))

/-- `BUF.MOV` (rule R95). -/
def execBufMov (s : State) : Host.Outcome State Fault Refusal :=
  operate s (fun s => s.setIb s.ob)

/-- `IB.TRIM f l` (rule R96). -/
def execIbTrim (f l : Byte) (s : State) : Host.Outcome State Fault Refusal :=
  operate s (fun s => s.setIb (trim s.ib f.toNat l.toNat))

end Sys2Proof.Machine
end

