-- ==== Sys2Proof/Machine/Event.lean ====
section
/-! DEFINITION. The Event record unpacker: `EV.LOAD` and `EV.SETYEAR` (43_event_record.md), the field views and
derived views of 10_state.md rules R20 to R32, and the text renderings of 43_event_record.md rules R160 to R162. -/

namespace Sys2Proof.Machine

/-- `EV.LOAD` (43_event_record.md rule R140). -/
def execEvLoad (s : State) : Host.Outcome State Fault Refusal :=
  operate s (fun s => s.setEr (EventRecord.ofBytes s.ib) (BitVec.ofNat 4 (min s.ib.length Config.evSize)))

/-- `EV.SETYEAR imm16` (43_event_record.md rule R141). -/
def execEvSetyear (imm16 : Half) (s : State) : Host.Outcome State Fault Refusal :=
  operate s (fun s => s.setCy imm16)

/-- `monitoring_s1`, `ER[0][1:0]` (10_state.md rule R20). -/
def State.monitoringS1 (s : State) : BitVec 2 := s.er.b0.extractLsb' 0 2

/-- `monitoring_s2`, `ER[0][3:2]` (rule R20). -/
def State.monitoringS2 (s : State) : BitVec 2 := s.er.b0.extractLsb' 2 2

/-- `present`, `ER[0][4]`, true when 1 (rule R20). -/
def State.present (s : State) : Bool := s.er.b0.getLsbD 4

/-- `not_empty`, `ER[0][5]`, true when 1 (rule R20). -/
def State.notEmpty (s : State) : Bool := s.er.b0.getLsbD 5

/-- `year`, `ER[0][7:6]`, the relative year (rule R20). -/
def State.year (s : State) : BitVec 2 := s.er.b0.extractLsb' 6 2

/-- `day`, `ER[1][4:0]` (rule R21). -/
def State.day (s : State) : BitVec 5 := s.er.b1.extractLsb' 0 5

/-- `class`, `ER[1][7:5]` (rule R21). -/
def State.eventClass (s : State) : BitVec 3 := s.er.b1.extractLsb' 5 3

/-- `minutes_high`, `ER[2][3:0]` (rule R22). -/
def State.minutesHigh (s : State) : BitVec 4 := s.er.b2.extractLsb' 0 4

/-- `month`, `ER[2][7:4]` (rule R22). -/
def State.month (s : State) : BitVec 4 := s.er.b2.extractLsb' 4 4

/-- `minutes_low`, `ER[3][7:0]` (rule R23). -/
def State.minutesLow (s : State) : Byte := s.er.b3

/-- `code_high`, `ER[4][1:0]` (rule R24). -/
def State.codeHigh (s : State) : BitVec 2 := s.er.b4.extractLsb' 0 2

/-- `restore`, `ER[4][2]`, true when 1 (rule R24). -/
def State.restore (s : State) : Bool := s.er.b4.getLsbD 2

/-- `partition`, `ER[4][7:3]` (rule R24). -/
def State.partition (s : State) : BitVec 5 := s.er.b4.extractLsb' 3 5

/-- `code_low`, `ER[5][7:0]` (rule R25). -/
def State.codeLow (s : State) : Byte := s.er.b5

/-- `source_number`, `ER[6][7:0]` (rule R26). -/
def State.sourceNumber (s : State) : Byte := s.er.b6

/-- `user_control_number`, `ER[7][4:0]` (rule R27). -/
def State.userControlNumber (s : State) : BitVec 5 := s.er.b7.extractLsb' 0 5

/-- `object_number`, `ER[7][7:5]` (rule R27). -/
def State.objectNumber (s : State) : BitVec 3 := s.er.b7.extractLsb' 5 3

/-- `event_index_n`, bytes 8 to 10, most significant first (rule R28). -/
def State.eventIndexN (s : State) : BitVec 24 :=
  BitVec.ofNat 24 (s.er.b8.toNat * 65536 + s.er.b9.toNat * 256 + s.er.b10.toNat)

/-- `calling_event_index_n`, bytes 11 to 13, most significant first (rule R29). -/
def State.callingEventIndexN (s : State) : BitVec 24 :=
  BitVec.ofNat 24 (s.er.b11.toNat * 65536 + s.er.b12.toNat * 256 + s.er.b13.toNat)

/-- `code = code_high * 256 + code_low`, 10 bits (rule R30). -/
def State.code (s : State) : BitVec 10 := BitVec.ofNat 10 (s.codeHigh.toNat * 256 + s.codeLow.toNat)

/-- `minutes = minutes_high * 256 + minutes_low`, 12 bits (rule R31). -/
def State.minutes (s : State) : BitVec 12 :=
  BitVec.ofNat 12 (s.minutesHigh.toNat * 256 + s.minutesLow.toNat)

/-- `hh = minutes div 60`, 7 bits (rule R31). -/
def State.hh (s : State) : BitVec 7 := BitVec.ofNat 7 (s.minutes.toNat / 60)

/-- `mm = minutes mod 60`, 6 bits (rule R31). -/
def State.mm (s : State) : BitVec 6 := BitVec.ofNat 6 (s.minutes.toNat % 60)

/-- `abs_year = (cy - (cy mod 4)) + year`, 16 bits (rule R32). -/
def State.absYear (s : State) : Half := s.cy - s.cy % 4#16 + s.year.setWidth 16

/-- A digit of the alphabet `0123456789ABCDEF` (43_event_record.md rule R160; DESIGN CHOICE log entry 9: characters,
not character codes). -/
def hexDigit (n : Nat) : Char :=
  ['0', '1', '2', '3', '4', '5', '6', '7', '8', '9', 'A', 'B', 'C', 'D', 'E', 'F'].getD n '?'

/-- `hex2(b)`: the characters of `b[7:4]` and `b[3:0]` (43_event_record.md rule R160). -/
def hex2 (b : Byte) : List Char := [hexDigit (b.toNat / 16), hexDigit (b.toNat % 16)]

/-- `dec2(n)` for `n` up to 99: tens first, with a leading `0` (43_event_record.md rule R160). -/
def dec2 (n : Nat) : List Char := [hexDigit (n / 10), hexDigit (n % 10)]

/-- `time`, 5 characters `HH:MM` (43_event_record.md rule R161). -/
def State.time (s : State) : List Char := dec2 s.hh.toNat ++ [':'] ++ dec2 s.mm.toNat

/-- `event_index` as text, 6 characters (43_event_record.md rule R162). -/
def State.eventIndexText (s : State) : List Char := hex2 s.er.b8 ++ hex2 s.er.b9 ++ hex2 s.er.b10

/-- `calling_event_index` as text, 6 characters (43_event_record.md rule R162). -/
def State.callingEventIndexText (s : State) : List Char := hex2 s.er.b11 ++ hex2 s.er.b12 ++ hex2 s.er.b13

/-- The one monitoring value the document names; the other three are unnamed (43_event_record.md rule R163). -/
def monitoringName (v : BitVec 2) : Option String := if v = 3 then some "not monitored" else none

/-- The one event class the document names; the other seven are unnamed (43_event_record.md rule R163). -/
def className (v : BitVec 3) : Option String := if v = 4 then some "access control" else none

end Sys2Proof.Machine
end

