-- ==== Sys2Proof/Machine/Framer.lean ====
section
/-! DEFINITION. The framer: `escape`, `unescape`, `encode`, `decode` of frames and the operations `FR.ESC`,
`FR.UNESC`, `FR.ENC`, `FR.DEC` (42_framer.md). -/

namespace Sys2Proof.Machine

/-- `escape(S)`: each `FE` becomes `FE F0`, every other byte stays (rule R120). -/
def escape : List Byte → List Byte
  | [] => []
  | b :: rest => if b = Config.esc then Config.esc :: Config.escSub :: escape rest else b :: escape rest

/-- The sequential scan of `unescape`, with the index `i` of the byte it stands at: the unescaped bytes, or the
index of the first `FE` that is not followed by `F0` (rule R121). -/
def unescapeFrom (i : Nat) : List Byte → Except Nat (List Byte)
  | [] => .ok []
  | [b] => if b = Config.esc then .error i else .ok [b]
  | b :: c :: rest =>
    if b = Config.esc then
      if c = Config.escSub then (unescapeFrom (i + 2) rest).map (fun T => Config.esc :: T)
      else .error i
    else (unescapeFrom (i + 1) (c :: rest)).map (fun T => b :: T)

/-- `unescape(S)`: the bytes, or the index of EscapeError (rule R121). -/
def unescape (S : List Byte) : Except Nat (List Byte) := unescapeFrom 0 S

/-- `encode(C)`: header, escaped command and checksum, footer (rule R122). -/
def encodeFrame (C : List Byte) : List Byte :=
  Config.hdr ++ escape (C ++ be16 (checksum C)) ++ Config.ftr

/-- `decode(R)`: length, header and footer tested in that order on the raw bytes, then the body unescaped
(rule R123). An EscapeError carries its index in `R`. -/
def decodeFrame (R : List Byte) : Except FaultInfo (List Byte) :=
  let n := R.length
  if n < 4 then .error { kind := .framingError, info := 1 }
  else if slice R 0 2 ≠ Config.hdr then .error { kind := .framingError, info := 2 }
  else if slice R (n - 2) n ≠ Config.ftr then .error { kind := .framingError, info := 3 }
  else (unescape (slice R 2 (n - 2))).mapError (fun i => { kind := .escapeError, info := i + 2 })

/-- `FR.ESC` (rule R124). -/
def execFrEsc (s : State) : Host.Outcome State Fault Refusal :=
  attempt (Instr.opcode .frEsc) s (fun s =>
    let T := escape s.ib
    if T.length > s.bufSize then .error { kind := .bufferOverflow, info := T.length }
    else .ok (s.setOb T))

/-- `FR.UNESC` (rule R125). -/
def execFrUnesc (s : State) : Host.Outcome State Fault Refusal :=
  attempt (Instr.opcode .frUnesc) s (fun s =>
    ((unescape s.ib).mapError (fun i => { kind := .escapeError, info := i })).map s.setOb)

/-- `FR.ENC` (rule R126). -/
def execFrEnc (s : State) : Host.Outcome State Fault Refusal :=
  attempt (Instr.opcode .frEnc) s (fun s =>
    let F := encodeFrame s.ib
    if F.length > s.bufSize then .error { kind := .bufferOverflow, info := F.length }
    else .ok ((s.setOb F).setAcc (checksum s.ib)))

/-- `FR.DEC` (rule R127). -/
def execFrDec (s : State) : Host.Outcome State Fault Refusal :=
  attempt (Instr.opcode .frDec) s (fun s =>
    (decodeFrame s.ib).map s.setOb)

end Sys2Proof.Machine
end

