-- ==== Sys2Proof/Machine/Dispatch.lean ====
section
/-! DEFINITION. The meaning of each operation, one arm for each constructor of Instr. -/

namespace Sys2Proof.Machine

def exec (i : Instr) (s : State) : Host.Outcome State Fault Refusal :=
  match i with
  | .nop => Sys2Proof.Machine.execNop s
  | .rst => Sys2Proof.Machine.execRst s
  | .ibClr => Sys2Proof.Machine.execIbClr s
  | .ibPush v => Sys2Proof.Machine.execIbPush v s
  | .bufMov => Sys2Proof.Machine.execBufMov s
  | .ibTrim f l => Sys2Proof.Machine.execIbTrim f l s
  | .csInit => Sys2Proof.Machine.execCsInit s
  | .csStep v => Sys2Proof.Machine.execCsStep v s
  | .csBuf => Sys2Proof.Machine.execCsBuf s
  | .csAppend => Sys2Proof.Machine.execCsAppend s
  | .csVerify => Sys2Proof.Machine.execCsVerify s
  | .frEsc => Sys2Proof.Machine.execFrEsc s
  | .frUnesc => Sys2Proof.Machine.execFrUnesc s
  | .frEnc => Sys2Proof.Machine.execFrEnc s
  | .frDec => Sys2Proof.Machine.execFrDec s
  | .evLoad => Sys2Proof.Machine.execEvLoad s
  | .evSetyear v => Sys2Proof.Machine.execEvSetyear v s
  | .bsSetoff v => Sys2Proof.Machine.execBsSetoff v s
  | .bsSetlen v => Sys2Proof.Machine.execBsSetlen v s
  | .plClr => Sys2Proof.Machine.execPlClr s
  | .plPush v => Sys2Proof.Machine.execPlPush v s
  | .bsScan => Sys2Proof.Machine.execBsScan s
  | .bsPack => Sys2Proof.Machine.execBsPack s

end Sys2Proof.Machine
end

