-- ==== Sys2Proof/Machine/Port.lean ====
section
/-! DEFINITION. The operation port: what one step does with what the outside presents (30_encoding.md rule R60,
20_memory.md rule R51, 60_exceptions.md rule R231), how words are queued at it, and the pseudo-operations of
30_encoding.md rule R69. -/

namespace Sys2Proof.Machine

/-- One word at the port: a legal word is executed, an illegal one raises IllegalOp. Both look at the halt check
first: each meaning but `RST`'s begins with it, and so does IllegalOp (60_exceptions.md rules R231, R233). -/
def issue (w : OpWord) (s : State) : Host.Outcome State Fault Refusal :=
  match decode w with
  | .ok i => exec i s
  | .error _ => takeIllegalOp w s

/-- One step: the first input is taken and done whole before the next (20_memory.md rule R51). With nothing
presented the block waits and nothing changes (DESIGN CHOICE, log entry 3). -/
def stepPort (s : State) : Host.Outcome State Fault Refusal :=
  match s.inputs with
  | [] => .next s
  | .word w :: rest => issue w (s.setInputs rest)
  | .resetLine :: rest => .next (s.setInputs rest).resetBlock

/-- `s` with the word put first at the port. -/
def State.presentWord (s : State) (w : OpWord) : State := s.setInputs (.word w :: s.inputs)

/-- `s` with the word of `nbits` bits `w` put first at the port; `s` itself where that is no word (log entry 1). -/
def State.presentBits (s : State) (nbits w : Nat) : State :=
  match OpWord.ofBits nbits w with
  | some ow => s.presentWord ow
  | none => s

/-- `s` with a byte string of words back to back queued at the port, after what is queued already
(30_encoding.md rule R68). -/
def State.queueBytes (s : State) (S : List Byte) : State := s.setInputs (s.inputs ++ (splitWords S).map .word)

/-- The pseudo-operation `IB.LOAD b0 ... bk` (30_encoding.md rule R69). -/
def ibLoad (S : List Byte) : List Instr := .ibClr :: S.map .ibPush

/-- The pseudo-operation `PL.LOAD p0 ... pk` (30_encoding.md rule R69). -/
def plLoad (P : List Half) : List Instr := .plClr :: P.map .plPush

/-- A straight list of operations issued top to bottom (30_encoding.md rule R69, 20_memory.md rule R51). -/
def issueAll : List Instr → State → Host.Outcome State Fault Refusal
  | [], s => .next s
  | i :: rest, s =>
    match exec i s with
    | .next t => issueAll rest t
    | .fault r => .fault r
    | .refused r => .refused r

end Sys2Proof.Machine
end

