-- ==== Sys2Proof/Machine/Step.lean ====
section
/-! DEFINITION. One step of the machine, and how the host places the word the next step runs. -/

namespace Sys2Proof.Machine

/-- One step: one input of the port, done whole (20_memory.md rule R51, 70_reset_and_hazards.md rule R263). -/
def step (s : State) : Host.Outcome State Fault Refusal := stepPort s

/-- `s` with the word of `nbits` bits `w`, numbered as spec/opcode_table.json numbers them, presented next at the
operation port: it stands for the host's presenting it (30_encoding.md rules R60, R64; log entries 1 and 2). -/
def State.withFetchWord (s : State) (nbits w : Nat) : State := s.presentBits nbits w

end Sys2Proof.Machine
end

