-- ==== Sys2Proof/Machine/HostProtocol.lean ====
section
/-! DEFINITION. The host's contract of 45_host_protocol.md, beside the machine: 00_scope.md rule R4 leaves it out of
the block, and no step uses a word of this file (log entry 12). The transport is a list of replies, one for each
connection; sleeping is a list of delays. -/

namespace Sys2Proof.Machine.HostSide

/-- The configuration of the transaction client, at its defaults (rule R190). -/
structure ClientConfig where
  maxAttempts : Nat := 3
  /-- In milliseconds. -/
  baseDelay : Nat := 2
  deriving DecidableEq, Repr

/-- What one connection brings: bytes, or a failure to connect, send or receive (rules R192, R197). -/
inductive Reply where
  | response (bytes : List Byte)
  | transportFailure
  deriving DecidableEq, Repr

/-- The error kinds of the host (rule R197), the block's EscapeError as it reaches the host, and the inputs on which
the document is silent (91_not_in_source.md N14), refused here. -/
inductive HostError where
  | framingError (info : Nat)
  | escapeError (index : Nat)
  | protocolMismatch
  | deviceError (status : Byte)
  | checksumError (computed : Nat)
  | transportError
  | notInSource
  deriving DecidableEq, Repr

/-- The busy sentinel, 8 bytes (rule R192). -/
def busySentinel : List Byte := [0x10, 0x42, 0x75, 0x73, 0x79, 0x21, 0x0D, 0x0A]

/-- "read up to 100 bytes as the response" (rule R192). -/
def readResponse (bytes : List Byte) : List Byte := bytes.take 100

/-- Step 2, with `left` attempts left, the next being number `attempt`: the response to validate, and the delays
slept (rule R192). A busy response is retried "unless this was the last attempt". -/
def retryLoop (baseDelay : Nat) : Nat → Nat → List Reply → Except HostError (List Byte) × List Nat
  | 0, _, _ => (.error .transportError, [])
  | _ + 1, _, [] => (.error .transportError, [])
  | _ + 1, _, .transportFailure :: _ => (.error .transportError, [])
  | left + 1, attempt, .response bytes :: more =>
    if readResponse bytes = busySentinel ∧ left ≠ 0 then
      let r := retryLoop baseDelay left (attempt + 1) more
      (r.1, baseDelay * attempt :: r.2)
    else (.ok (readResponse bytes), [])

/-- Step 4 on the unescaped `output`: the error form is accepted with status `FF` or `00`, any other form must echo
the command's opcode byte `command[0]` (rule R194, 90_conflicts.md C3). -/
def checkStatus (command output : List Byte) : Except HostError Unit :=
  match command, output with
  | _, [] => .error .notInSource
  | _, [0xEF#8] => .error .notInSource
  | _, 0xEF#8 :: status :: _ =>
    if status = 0xFF ∨ status = 0x00 then .ok () else .error (.deviceError status)
  | [], _ :: _ => .error .notInSource
  | opcode :: _, first :: _ => if first = opcode then .ok () else .error .protocolMismatch

/-- Steps 3 to 6 on the raw response: envelope and unescape, status or echo, checksum, strip (rules R193 to R195;
the strip always takes one leading byte, 90_conflicts.md C4). -/
def validate (command raw : List Byte) : Except HostError (List Byte) :=
  match decodeFrame raw with
  | .error e => if e.kind = .framingError then .error (.framingError e.info) else .error (.escapeError e.info)
  | .ok output =>
    match checkStatus command output with
    | .error e => .error e
    | .ok () =>
      match verifyPayload output with
      | .error e => .error (.checksumError e.info)
      | .ok _ => .ok (trim output 1 2)

/-- `execute(command)`: the frame sent at every attempt, the payload or the error, and the delays slept (rules R190
to R195). -/
def execute (cfg : ClientConfig) (command : List Byte) (replies : List Reply) :
    List Byte × Except HostError (List Byte) × List Nat :=
  let r := retryLoop cfg.baseDelay cfg.maxAttempts 1 replies
  (encodeFrame command,
    (match r.1 with
      | .error e => .error e
      | .ok raw => validate command raw),
    r.2)

/-- The event-log command: `8C` and a 3-byte event index (rule R199). -/
def eventCommand (i2 i1 i0 : Byte) : List Byte := [0x8C, i2, i1, i0]

/-- "`0xFFFFFF` selects the most recent event" (rule R199). -/
def latestEventCommand : List Byte := eventCommand 0xFF 0xFF 0xFF

/-- The command for the event before the one in `ER`: the record's own index, sent back (rule R199). -/
def olderEventCommand (r : EventRecord) : List Byte := eventCommand r.b8 r.b9 r.b10

/-- The device-name command (rule R200). -/
def nameCommand (kind number : Byte) : List Byte := [0xEE, kind, number]

/-- The version command (rule R201). -/
def versionCommand : List Byte := [0x7E]

/-- The data of the version response, "order and offsets of the response fields are as listed, 1 + 11 + 1 + 1 = 14
bytes" (rule R201). -/
structure VersionData where
  model : Byte
  text : List Byte
  language : Byte
  flashFlag : Byte
  deriving DecidableEq, Repr

/-- The 14 bytes of a version response apart (rule R201). Where there are fewer, a byte that is missing reads `00`, as
the spec says of Event and Name records only, and bytes beyond the 14 are ignored (DESIGN CHOICE, log entry 12). -/
def VersionData.ofBytes (S : List Byte) : VersionData where
  model := byteAt S 0
  text := (List.range 11).map (fun i => byteAt S (1 + i))
  language := byteAt S 12
  flashFlag := byteAt S 13

/-- "settings stored in flash": "`0xFF` = stored" (rule R201). -/
def VersionData.stored (v : VersionData) : Bool := decide (v.flashFlag = 0xFF)

/-- A NameRecord, 20 bytes (rule R203). -/
structure NameRecord where
  typeCode : Byte
  number : Byte
  function : Byte
  text : List Byte
  serial : Byte
  deriving DecidableEq, Repr

/-- The record of `S`, short input zero filled "exactly as for the Event record" (rule R203). -/
def NameRecord.ofBytes (S : List Byte) : NameRecord where
  typeCode := byteAt S 0
  number := byteAt S 1
  function := byteAt S 2
  text := (List.range 16).map (fun i => byteAt S (3 + i))
  serial := byteAt S 19

/-- The name of the type, "default 'Unknown'" (rule R203), over the open type table. -/
def NameRecord.typeName (r : NameRecord) : String := (Config.typeTable r.typeCode).getD "Unknown"

/-- "decode text with the configured codepage and strip trailing padding/whitespace" (rule R203), over the open
code page and padding. -/
def NameRecord.name (r : NameRecord) : List Char :=
  ((r.text.map Config.codepage).reverse.dropWhile Config.isPadding).reverse

/-- The name cache: records keyed by device kind and number, never invalidated (rule R204). -/
abbrev NameCache := List ((Byte × Byte) × NameRecord)

/-- A lookup: the cached record, or the one a transaction fetched, which is then cached; an error is not cached
(rule R204). -/
def NameCache.lookup (cache : NameCache) (kind number : Byte) (fetched : Except HostError NameRecord) :
    Except HostError NameRecord × NameCache :=
  match cache.find? (fun e => e.1 == (kind, number)) with
  | some e => (.ok e.2, cache)
  | none =>
    match fetched with
    | .ok r => (.ok r, cache ++ [((kind, number), r)])
    | .error e => (.error e, cache)

/-- The decimal digits of `n`, last first, at most `fuel` of them. -/
def digitsRev : Nat → Nat → List Nat
  | 0, _ => []
  | fuel + 1, n => if n < 10 then [n] else n % 10 :: digitsRev fuel (n / 10)

/-- Pairs of digits as bytes, first digit in the high nibble; none for an odd number of digits (rule R205;
93_implementation_defined.md U2: refused). -/
def pairDigits : List Nat → Option (List Byte)
  | [] => some []
  | [_] => none
  | a :: b :: rest => (pairDigits rest).map (fun t => BitVec.ofNat 8 (a * 16 + b) :: t)

/-- The digit pairs of a number. Its digits are counted up to 18, which is already too many for 8 bytes. -/
def codeBytes (n : Nat) : Option (List Byte) := pairDigits (digitsRev 18 n).reverse

/-- `format(code, prefix)`, 8 bytes (rule R205). Refused: an odd number of digits, or more than 8 bytes
(93_implementation_defined.md U1, U2). -/
def formatUserCode (code : Nat) (before : Option Nat) : Option (List Byte) :=
  match (match before with
    | none => some []
    | some p => codeBytes p), codeBytes code with
  | some p, some c => if (p ++ c).length ≤ 8 then some (p ++ c ++ List.replicate (8 - (p ++ c).length) 0xFF) else none
  | _, _ => none

/-- The operations that frame a command in the block (rule R206). -/
def sendOps (command : List Byte) : List Instr := ibLoad command ++ [.frEnc]

/-- The operations that take a raw response apart in the block, up to the host's own step 4 (rule R206). -/
def receiveOps (raw : List Byte) : List Instr := ibLoad raw ++ [.frDec, .bufMov]

/-- The operations that check and strip the payload (rule R206). -/
def acceptOps : List Instr := [.csVerify, .ibTrim 0x01 0x02]

end Sys2Proof.Machine.HostSide
end

