-- ==== Sys2Proof/Machine/Access.lean ====
section
/-! DEFINITION. The access table of 10_state.md rule R17: which pieces of state each operation reads and writes. -/

namespace Sys2Proof.Machine

/-- The columns of the table. `er` is `ER` with `ercnt`. -/
inductive Piece where
  | acc
  | ib
  | ob
  | er
  | cy
  | boff
  | blen
  | pl
  deriving DecidableEq, Repr

/-- The pieces an operation's row marks `r` or `rw` (rule R17). -/
def readsOf : Instr → List Piece
  | .nop | .rst | .ibClr | .csInit | .evSetyear _ | .bsSetoff _ | .bsSetlen _ | .plClr => []
  | .ibPush _ | .ibTrim _ _ | .csBuf | .csVerify | .frEsc | .frUnesc | .frEnc | .frDec | .evLoad => [.ib]
  | .bufMov => [.ob]
  | .csStep _ => [.acc]
  | .csAppend => [.acc, .ib]
  | .plPush _ => [.pl]
  | .bsScan => [.ib, .boff]
  | .bsPack => [.boff, .blen, .pl]

/-- The pieces an operation's row marks `w` or `rw` (rule R17). -/
def writesOf : Instr → List Piece
  | .nop => []
  | .rst => [.acc, .ib, .ob, .er, .cy, .boff, .blen, .pl]
  | .ibClr | .ibPush _ | .bufMov | .ibTrim _ _ | .csAppend => [.ib]
  | .csInit | .csStep _ | .csBuf | .csVerify => [.acc]
  | .frEsc | .frUnesc | .frDec | .bsPack => [.ob]
  | .frEnc => [.acc, .ob]
  | .evLoad => [.er]
  | .evSetyear _ => [.cy]
  | .bsSetoff _ => [.boff]
  | .bsSetlen _ => [.blen]
  | .plClr | .plPush _ | .bsScan => [.pl]

/-- `s` with the piece `p` taken from `d`. -/
def State.withPiece (s : State) (p : Piece) (d : State) : State :=
  match p with
  | .acc => s.setAcc d.acc
  | .ib => s.setIb d.ib
  | .ob => s.setOb d.ob
  | .er => s.setEr d.er d.ercnt
  | .cy => s.setCy d.cy
  | .boff => s.setBoff d.boff
  | .blen => s.setBlen d.blen
  | .pl => s.setPl d.pl

end Sys2Proof.Machine
end

