-- ==== Sys2Proof/Machine/Invariant.lean ====
section
/-! DEFINITION. What the rules promise of every state between two operations: capacities, the zero-filled record,
the fault registers, and what the fault registers say of the buffers (10_state.md, 20_memory.md, 60_exceptions.md). -/

namespace Sys2Proof.Machine

/-- `len(IB)` and `len(OB)` are at most `BUF_SIZE`, `len(PL)` at most `PL_SIZE` (10_state.md rules R11, R12, R16). -/
abbrev State.WithinCapacity (s : State) : Prop :=
  s.ib.length ≤ s.bufSize ∧ s.ob.length ≤ s.bufSize ∧ s.pl.length ≤ s.plSize

/-- `ercnt` is at most 14 and the bytes `ER[ercnt]` to `ER[13]` are zero (10_state.md rules R13, R33). -/
abbrev State.RecordZeroFilled (s : State) : Prop :=
  s.ercnt.toNat ≤ 14 ∧ ∀ k < 14, s.ercnt.toNat ≤ k → s.er.byte k = 0

/-- `flt` is a code of the table, `fop` an operation that raises it, and both registers beside it are 0 while `flt`
is 0 (10_state.md rule R36, 60_exceptions.md rule R220). -/
abbrev State.FaultGroupLegal (s : State) : Prop :=
  s.flt.toNat ≤ 6 ∧
  (s.flt = 0 → s.fop = 0 ∧ s.finfo = 0) ∧
  (s.flt = 1 → s.fop = 0x23) ∧
  (s.flt = 2 → s.fop = 0x14) ∧
  (s.flt = 3 → s.fop = 0x21 ∨ s.fop = 0x23) ∧
  (s.flt = 4 → s.fop = 0x03 ∨ s.fop = 0x13 ∨ s.fop = 0x20 ∨ s.fop = 0x22 ∨ s.fop = 0x43 ∨ s.fop = 0x45) ∧
  (s.flt = 5 → s.fop = 0x45) ∧
  (s.flt = 6 → 1 ≤ s.finfo.toNat ∧ s.finfo.toNat ≤ 3)

/-- A well-formed state: legal parameters, capacities, record and fault registers. -/
abbrev State.Wf (s : State) : Prop :=
  s.params.wf = true ∧ s.WithinCapacity ∧ s.RecordZeroFilled ∧ s.FaultGroupLegal

/-- While a fault is held, the buffers still show its cause, because a fault is precise and a halted block changes
nothing (60_exceptions.md rules R221 to R225, R232, R233). -/
abbrev State.FaultExplained (s : State) : Prop :=
  (s.flt = 1 →
    (s.finfo = 1 ∧ s.ib.length < 4) ∨
    (s.finfo = 2 ∧ 4 ≤ s.ib.length ∧ s.ib.take 2 ≠ [0xFE, 0xFE]) ∨
    (s.finfo = 3 ∧ 4 ≤ s.ib.length ∧ s.ib.take 2 = [0xFE, 0xFE] ∧ s.ib.drop (s.ib.length - 2) ≠ [0xFE, 0x0D])) ∧
  (s.flt = 2 → s.finfo = checksum (s.ib.take (s.ib.length - 2)) ∧
    s.ib.drop (s.ib.length - 2) ≠ be16 s.finfo) ∧
  (s.flt = 3 → s.ib[s.finfo.toNat]? = some 0xFE ∧ s.ib[s.finfo.toNat + 1]? ≠ some 0xF0) ∧
  (s.flt = 4 → s.bufSize < s.finfo.toNat) ∧
  (s.flt = 5 → s.finfo ∈ s.pl ∧ inRange s.blen.toNat s.boff.toNat s.finfo = false)

end Sys2Proof.Machine
end

