-- ==== Sys2Proof/Safety.lean ====
section
/-! DEFINITION. What counts as a safe state and a finished run, in the terms the statements use. -/

namespace Sys2Proof.Machine

/-- The block can take an operation: it is not halted (70_reset_and_hazards.md rule R251). -/
abbrev State.Ready (s : State) : Prop := s.flt = 0

/-- A safe state: well formed, and a held fault is explained by the buffers. -/
abbrev State.Safe (s : State) : Prop := s.Wf ∧ s.FaultExplained

/-- A finished run: "a claim about a run takes `flt` = 0 at the end as a premise" (60_exceptions.md rule R233). -/
abbrev Finished (s : State) (k : Nat) (t : State) : Prop := Sys2Proof.core.run k s = .next t ∧ t.Ready

/-- An input that lets a halted block go on: a legal `RST`, or the reset input (60_exceptions.md rule R235). -/
def Input.resets : Input → Bool
  | .word w => decide (w = .one 0x01)
  | .resetLine => true

end Sys2Proof.Machine
end

