-- ==== Sys2Proof/Certificates/Slice0/Obligations.lean ====
section
/-! DEFINITION. The statements about the model. Each docstring names the rule of spec/ it formalises. `s.flt = 0` is
the block not halted; a next state written `{ s with … }` says also that every other piece of state stays. -/

namespace Sys2Proof.Machine

/-- The byte stuffing of 42_framer.md rule R120 written as one map over the bytes, apart from `escape`. -/
def stuffed (S : List Byte) : List Byte := S.flatMap (fun b => if b = 0xFE then [0xFE, 0xF0] else [b])

/-- The bytes of a frame from header to footer (42_framer.md rule R122), over `stuffed`. -/
def framed (C : List Byte) : List Byte :=
  [0xFE, 0xFE] ++ stuffed (C ++ [hiByte (checksum C), loByte (checksum C)]) ++ [0xFE, 0x0D]

/-- Bit `i` of a byte buffer: bit `i mod 8` of byte `i div 8` (20_memory.md rule R46). -/
def BitSet (B : List Byte) (i : Nat) : Prop := ∃ b, B[i / 8]? = some b ∧ b.toNat.testBit (i % 8) = true

end Sys2Proof.Machine

open Sys2Proof Sys2Proof.Machine

/-! ### Encoding -/

/-- Decoding and encoding agree in both directions (30_encoding.md rules R61 to R67). -/
def Obligations.DecodeAndEncodeAgree : Prop :=
  ∀ (w : OpWord) (i : Instr), decode w = .ok i ↔ w = encode i

/-- Words stored back to back are read back as they were stored, whatever follows, and an illegal opcode byte is
taken as a word of one byte (30_encoding.md rule R68). -/
def Obligations.StoredWordsAreReadBack : Prop :=
  (∀ (ops : List Instr) (tail : List Byte),
    splitWords (ops.flatMap (fun i => (encode i).bytes) ++ tail) = ops.map encode ++ splitWords tail) ∧
  (∀ (op : Byte) (tail : List Byte), formatOf op = none → splitWords (op :: tail) = .one op :: splitWords tail)

/-- The decoder accepts a word when, and only when, a row of the opcode table accepts it, and then it yields the
operation of that one row (30_encoding.md rules R64, R66, R67). -/
def Obligations.DecoderFollowsTheOpcodeTable : Prop :=
  (∀ w : OpWord, (∃ i, decode w = .ok i) ↔ w.legal = true) ∧
  (∀ (w : OpWord) (i : Instr), decode w = .ok i →
    (opcodeTable.filter (fun r => r.accepts w)).map OpcodeRow.mnemonic = [i.mnemonic])

/-- The opcode bytes in no row of the map, and their number, 233 (30_encoding.md rule R67). -/
def Obligations.UnlistedOpcodeBytesAreIllegal : Prop :=
  (∀ op : Byte, formatOf op = none ↔
    (0x06 ≤ op.toNat ∧ op.toNat ≤ 0x0F) ∨ (0x15 ≤ op.toNat ∧ op.toNat ≤ 0x1F) ∨
    (0x24 ≤ op.toNat ∧ op.toNat ≤ 0x2F) ∨ (0x32 ≤ op.toNat ∧ op.toNat ≤ 0x3F) ∨
    (0x46 ≤ op.toNat ∧ op.toNat ≤ 0xFF)) ∧
  ((List.range 256).filter (fun n => (formatOf (BitVec.ofNat 8 n)).isNone)).length = 233

/-- Words written out from the encoding tables decode to their operations (30_encoding.md rules R61 to R66). -/
def Obligations.WrittenOutWordsDecode : Prop :=
  decode (.one 0b00000001) = .ok .rst ∧
  decode (.two 0b00000011 0x1C) = .ok (.ibPush 0x1C) ∧
  decode (.three 0b00000101 0x01 0x02) = .ok (.ibTrim 0x01 0x02) ∧
  decode (.two 0b00010001 0x09) = .ok (.csStep 0x09) ∧
  decode (.one 0b00100011) = .ok .frDec ∧
  decode (.three 0b00110001 0x07 0xE1) = .ok (.evSetyear 2017) ∧
  decode (.three 0b01000011 0x00 0x0E) = .ok (.plPush 14)

/-! ### The step -/

/-- A step at a legal word runs the decoded operation, with that word gone from the port (30_encoding.md rule R60,
20_memory.md rule R51). -/
def Obligations.StepRunsTheDecodedOperation : Prop :=
  ∀ (s : State) (w : OpWord) (rest : List Input) (i : Instr),
    s.inputs = .word w :: rest → decode w = .ok i → step s = exec i { s with inputs := rest }

/-- A step at an illegal word raises IllegalOp and changes no other state of the block (60_exceptions.md rule
R227). -/
def Obligations.IllegalWordRaisesIllegalOp : Prop :=
  ∀ (s : State) (w : OpWord) (rest : List Input),
    s.flt = 0 → s.inputs = .word w :: rest → w.legal = false →
    step s = .next { s with inputs := rest, flt := 6, fop := w.opcode, finfo := BitVec.ofNat 16 w.length }

/-- The reset input puts every piece of the block's state at its reset value, whatever it held, as `RST` does
(70_reset_and_hazards.md rule R250). -/
def Obligations.ResetInputActsAsRst : Prop :=
  ∀ (s : State) (rest : List Input), s.inputs = .resetLine :: rest →
    step s = exec .rst { s with inputs := rest } ∧ step s = .next (State.resetWith s.params rest)

/-- With nothing at the port a step changes nothing: the MODEL's choice, log entry 3. -/
def Obligations.StepWithoutInputChangesNothing : Prop :=
  ∀ s : State, s.inputs = [] → step s = .next s

/-- Every step answers a next state: it takes exactly one input, and no step changes the parameters
(70_reset_and_hazards.md rule R263; the parameter and the inputs as fields are the model's, log entries 2 and 5). -/
def Obligations.EveryStepTakesOneInput : Prop :=
  ∀ s : State, ∃ t, step s = .next t ∧ t.inputs = s.inputs.tail ∧ t.params = s.params

/-- A halted block ignores every word but the one-byte word `01`, an illegal one too, and that word resets it
(60_exceptions.md rule R233). -/
def Obligations.HaltedBlockIgnoresEveryWordButRst : Prop :=
  ∀ (s : State) (w : OpWord) (rest : List Input), s.flt ≠ 0 → s.inputs = .word w :: rest →
    (w ≠ .one 0x01 → step s = .next { s with inputs := rest }) ∧
    (w = .one 0x01 → step s = .next (State.resetWith s.params rest))

/-- From a halted state, a run of any length whose inputs hold no `RST` and no reset leaves the whole state of the
block as it was: the first fault is kept (60_exceptions.md rules R233, R235). Where `k` is above the number of inputs,
the steps with nothing presented keep the state by the MODEL's choice, log entry 3, and by no rule. -/
def Obligations.HaltedRunKeepsTheFirstFault : Prop :=
  ∀ (k : Nat) (s : State), s.flt ≠ 0 → (∀ x ∈ s.inputs.take k, x.resets = false) →
    Sys2Proof.core.run k s = .next { s with inputs := s.inputs.drop k }

/-- A step that leaves the halted state took a legal `RST` or the reset input, and every piece of the block's state is
at its reset value after it (60_exceptions.md rule R235). -/
def Obligations.OnlyResetLeavesTheHaltedState : Prop :=
  ∀ s t : State, s.flt ≠ 0 → step s = .next t → t.flt = 0 →
    ∃ x rest, s.inputs = x :: rest ∧ (x = .resetLine ∨ x = .word (.one 0x01)) ∧
      t = State.resetWith s.params rest

/-! ### Invariants and whole-machine rules -/

/-- Every step keeps a state well formed: capacities, the zero-filled record, and the fault registers (10_state.md
rules R11 to R13, R16, R33, R36; 20_memory.md rules R40 to R42; 60_exceptions.md rule R220). -/
def Obligations.StepKeepsStateWellFormed : Prop :=
  ∀ s t : State, s.Wf → step s = .next t → t.Wf

/-- Every step keeps the promise that a held fault is explained by what the buffers still hold (60_exceptions.md
rules R221 to R225, R232, R233). -/
def Obligations.StepKeepsHeldFaultExplained : Prop :=
  ∀ s t : State, s.Wf → s.FaultExplained → step s = .next t → t.FaultExplained

/-- The state after reset is well formed, explains its (absent) fault, and is not halted (10_state.md rule R37,
70_reset_and_hazards.md rule R251). -/
def Obligations.ResetStateIsSafeAndReady : Prop :=
  State.reset.Safe ∧ State.reset.Ready

/-- The reset values, after reset and after the operation `RST` whatever the state was (10_state.md rule R37). -/
def Obligations.ResetValuesAreTheTable : Prop :=
  ∀ t : State, (t = State.reset ∨ ∃ s, exec .rst s = .next t) →
    t.acc = 0x147A ∧ t.ib = [] ∧ t.ob = [] ∧ (∀ k < 14, t.er.byte k = 0x00) ∧ t.ercnt = 0 ∧ t.cy = 0 ∧
    t.boff = 1 ∧ t.blen = 16 ∧ t.pl = [] ∧ t.flt = 0 ∧ t.fop = 0 ∧ t.finfo = 0

/-- Faults are precise: an operation that faults writes `flt`, `fop` and `finfo` and nothing else, and `fop` is the
first byte of its word (60_exceptions.md rule R232). -/
def Obligations.FaultEntryWritesOnlyTheFaultRegisters : Prop :=
  ∀ (i : Instr) (s t : State), s.flt = 0 → exec i s = .next t → t.flt ≠ 0 →
    t = { s with flt := t.flt, fop := (encode i).opcode, finfo := t.finfo }

/-- The fault a word can raise, by the column "raised by" of the table (60_exceptions.md rule R220). -/
def Obligations.EachFaultCodeHasItsRaisers : Prop :=
  ∀ (s t : State) (w : OpWord) (rest : List Input), s.flt = 0 → s.inputs = .word w :: rest → step s = .next t →
    (t.flt = 1 → w = .one 0x23) ∧
    (t.flt = 2 → w = .one 0x14) ∧
    (t.flt = 3 → w = .one 0x21 ∨ w = .one 0x23) ∧
    (t.flt = 4 → (∃ v, w = .two 0x03 v) ∨ w = .one 0x13 ∨ w = .one 0x20 ∨ w = .one 0x22 ∨
      (∃ a b, w = .three 0x43 a b) ∨ w = .one 0x45) ∧
    (t.flt = 5 → w = .one 0x45) ∧
    (t.flt = 6 ↔ w.legal = false) ∧
    t.flt.toNat ≤ 6

/-- The operations that never fault leave the block ready (60_exceptions.md rule R226). -/
def Obligations.NeverFaultingOperationsStayReady : Prop :=
  ∀ (i : Instr) (s : State), s.flt = 0 →
    i ∈ [.nop, .rst, .ibClr, .bufMov, .csInit, .csBuf, .evLoad, .plClr, .bsScan] ∨ (∃ f l, i = .ibTrim f l) ∨
      (∃ v, i = .csStep v) ∨ (∃ y, i = .evSetyear y) ∨ (∃ v, i = .bsSetoff v) ∨ (∃ v, i = .bsSetlen v) →
    ∃ t, exec i s = .next t ∧ t.flt = 0 ∧ t.fop = (if i = .rst then 0 else s.fop) ∧
      t.finfo = (if i = .rst then 0 else s.finfo)

/-- An operation writes only the pieces its row of the access table marks `w` (10_state.md rule R17). -/
def Obligations.OperationsWriteOnlyTheirColumns : Prop :=
  ∀ (i : Instr) (p : Piece) (s t : State), p ∉ writesOf i → exec i s = .next t → t.withPiece p s = t

/-- An operation reads only the pieces its row of the access table marks `r`: change another piece before it, and
nothing but that piece can differ after it, the fault registers included (10_state.md rule R17). -/
def Obligations.OperationsReadOnlyTheirColumns : Prop :=
  ∀ (i : Instr) (p : Piece) (s d t : State), p ∉ readsOf i → exec i s = .next t →
    ∃ u, exec i (s.withPiece p d) = .next u ∧ u.withPiece p t = t

/-! ### Control and buffer operations -/

/-- `NOP` (40_control_buffer.md rule R91): it changes nothing, also while the block is halted. -/
def Obligations.NopChangesNothing : Prop :=
  encode .nop = .one 0x00 ∧ ∀ s : State, exec .nop s = .next s

/-- `RST` (40_control_buffer.md rule R92): every value of the reset table, also while the block is halted, when no
other operation changes anything; and it does what the reset input does. -/
def Obligations.RstRestoresEveryResetValue : Prop :=
  encode .rst = .one 0x01 ∧
  (∀ s : State, ∃ r, (∀ k < 14, r.byte k = 0x00) ∧
    exec .rst s = .next { acc := 0x147A, ib := [], ob := [], er := r, ercnt := 0, cy := 0, boff := 1, blen := 16,
                          pl := [], flt := 0, fop := 0, finfo := 0, params := s.params, inputs := s.inputs }) ∧
  (∀ (s : State) (i : Instr), s.flt ≠ 0 → i ≠ .rst → exec i s = .next s) ∧
  (∀ (s : State) (rest : List Input), s.inputs = .resetLine :: rest → step s = exec .rst { s with inputs := rest })

/-- `IB.CLR` (40_control_buffer.md rule R93). -/
def Obligations.IbClrEmptiesIb : Prop :=
  encode .ibClr = .one 0x02 ∧ ∀ s : State, s.flt = 0 → exec .ibClr s = .next { s with ib := [] }

/-- `IB.PUSH` (40_control_buffer.md rule R94): it appends its byte, or faults on a full buffer with the length
that was needed. -/
def Obligations.IbPushAppendsOrOverflows : Prop :=
  ∀ (v : Byte) (s : State), encode (.ibPush v) = .two 0x03 v ∧
    (s.flt = 0 → s.ib.length ≠ s.bufSize → exec (.ibPush v) s = .next { s with ib := s.ib ++ [v] }) ∧
    (s.flt = 0 → s.ib.length = s.bufSize →
      exec (.ibPush v) s = .next { s with flt := 4, fop := 0x03, finfo := BitVec.ofNat 16 (s.bufSize + 1) })

/-- `BUF.MOV` (40_control_buffer.md rule R95). -/
def Obligations.BufMovCopiesObToIb : Prop :=
  encode .bufMov = .one 0x04 ∧ ∀ s : State, s.flt = 0 → exec .bufMov s = .next { s with ib := s.ob }

/-- `IB.TRIM` (40_control_buffer.md rule R96): what is left is `len - f - l` bytes, none where there are not that
many, and byte `j` of it is byte `f + j` of the old buffer. -/
def Obligations.IbTrimDropsBothEnds : Prop :=
  ∀ (f l : Byte) (s : State), encode (.ibTrim f l) = .three 0x05 f l ∧
    (s.flt = 0 → ∃ T, exec (.ibTrim f l) s = .next { s with ib := T } ∧
      T.length = s.ib.length - (f.toNat + l.toNat) ∧ ∀ j < T.length, T[j]? = s.ib[f.toNat + j]?)

/-! ### Checksum -/

/-- `CS.INIT` (41_checksum.md rule R105). -/
def Obligations.CsInitLoadsTheInitialValue : Prop :=
  encode .csInit = .one 0x10 ∧ ∀ s : State, s.flt = 0 → exec .csInit s = .next { s with acc := 0x147A }

/-- `CS.STEP` (41_checksum.md rules R100, R101, R103, R106) in natural numbers: with `r` the accumulator rotated left
and `c` its complement, the new accumulator is `c + c div 256 + b` modulo 2^16. -/
def Obligations.CsStepRotatesComplementsAndAdds : Prop :=
  ∀ (b : Byte) (s : State), encode (.csStep b) = .two 0x11 b ∧
    (s.flt = 0 → ∃ v : Half, exec (.csStep b) s = .next { s with acc := v } ∧
      ∀ r c : Nat, r = s.acc.toNat * 2 % 65536 + s.acc.toNat / 32768 → c = 65535 - r →
        v.toNat = (c + c / 256 + b.toNat) % 65536)

/-- The checksum is a running one: it starts at `0x147A`, takes one step for each byte in order, and goes on over
what follows (41_checksum.md rule R102). -/
def Obligations.ChecksumIsARunningFold : Prop :=
  checksum [] = 0x147A ∧
  (∀ (S : List Byte) (b : Byte), checksum (S ++ [b]) = csStep (checksum S) b) ∧
  (∀ S T : List Byte, checksum (S ++ T) = T.foldl csStep (checksum S))

/-- `CS.BUF` (41_checksum.md rule R107): it takes `acc` to the checksum of `IB`, whatever `acc` held. -/
def Obligations.CsBufSumsIb : Prop :=
  encode .csBuf = .one 0x12 ∧ ∀ s : State, s.flt = 0 → exec .csBuf s = .next { s with acc := checksum s.ib }

/-- `CS.INIT` and then a `CS.STEP` for each byte of a sequence leave its checksum in `acc` (41_checksum.md rules R102,
R106). -/
def Obligations.CsInitThenStepsIsTheChecksum : Prop :=
  ∀ (S : List Byte) (s : State), s.flt = 0 →
    issueAll (.csInit :: S.map .csStep) s = .next { s with acc := checksum S }

/-- `CS.APPEND` (41_checksum.md rule R108): both bytes of `acc`, high byte first, or the fault and not even one
byte. -/
def Obligations.CsAppendAppendsBothBytesOrOverflows : Prop :=
  encode .csAppend = .one 0x13 ∧
  ∀ (s : State) (hi lo : Byte), s.acc.toNat = hi.toNat * 256 + lo.toNat →
    (s.flt = 0 → s.ib.length + 2 ≤ s.bufSize → exec .csAppend s = .next { s with ib := s.ib ++ [hi, lo] }) ∧
    (s.flt = 0 → s.ib.length + 2 > s.bufSize →
      exec .csAppend s = .next { s with flt := 4, fop := 0x13, finfo := BitVec.ofNat 16 (s.ib.length + 2) })

/-- `CS.VERIFY` (41_checksum.md rule R109): the trailing two bytes, big-endian, against the checksum of the bytes
before them; a buffer of fewer than two bytes always fails. -/
def Obligations.CsVerifyChecksTheTrailingChecksum : Prop :=
  encode .csVerify = .one 0x14 ∧
  (∀ (s : State) (C : List Byte) (hi lo : Byte), s.flt = 0 → s.ib = C ++ [hi, lo] →
    (hi.toNat * 256 + lo.toNat = (checksum C).toNat → exec .csVerify s = .next { s with acc := checksum C }) ∧
    (hi.toNat * 256 + lo.toNat ≠ (checksum C).toNat →
      exec .csVerify s = .next { s with flt := 2, fop := 0x14, finfo := checksum C })) ∧
  (∀ s : State, s.flt = 0 → s.ib.length < 2 →
    exec .csVerify s = .next { s with flt := 2, fop := 0x14, finfo := 0x147A })

/-! ### Framer -/

/-- `FR.ESC` (42_framer.md rules R120, R124): `OB` takes the stuffed bytes, whose length is that of `IB` plus its
number of `FE` bytes, or the fault with that length. -/
def Obligations.FrEscStuffsOrOverflows : Prop :=
  encode .frEsc = .one 0x20 ∧
  ∀ s : State,
    (stuffed s.ib).length = s.ib.length + s.ib.count 0xFE ∧
    (s.flt = 0 → (stuffed s.ib).length ≤ s.bufSize → exec .frEsc s = .next { s with ob := stuffed s.ib }) ∧
    (s.flt = 0 → (stuffed s.ib).length > s.bufSize →
      exec .frEsc s =
        .next { s with flt := 4, fop := 0x20, finfo := BitVec.ofNat 16 (stuffed s.ib).length })

/-- `FR.UNESC` (42_framer.md rules R121, R125): stuffed bytes give back what was stuffed; an `FE` that is not
followed by `F0`, after bytes that are well stuffed, faults with its index; and every content of `IB` is of one of
these two kinds. -/
def Obligations.FrUnescUnstuffsOrFaults : Prop :=
  encode .frUnesc = .one 0x21 ∧
  (∀ (s : State) (T : List Byte), s.flt = 0 → s.ib = stuffed T → exec .frUnesc s = .next { s with ob := T }) ∧
  (∀ (s : State) (A rest : List Byte), s.flt = 0 → s.ib = stuffed A ++ 0xFE :: rest → rest.head? ≠ some 0xF0 →
    exec .frUnesc s =
      .next { s with flt := 3, fop := 0x21, finfo := BitVec.ofNat 16 (stuffed A).length }) ∧
  (∀ S : List Byte, (∃ T, S = stuffed T) ∨ (∃ A rest, S = stuffed A ++ 0xFE :: rest ∧ rest.head? ≠ some 0xF0))

/-- `FR.ENC` (42_framer.md rules R122, R126): `OB` takes the frame and `acc` the command's checksum, or the fault
and neither changes. -/
def Obligations.FrEncFramesOrOverflows : Prop :=
  encode .frEnc = .one 0x22 ∧
  ∀ s : State,
    (s.flt = 0 → (framed s.ib).length ≤ s.bufSize →
      exec .frEnc s = .next { s with ob := framed s.ib, acc := checksum s.ib }) ∧
    (s.flt = 0 → (framed s.ib).length > s.bufSize →
      exec .frEnc s = .next { s with flt := 4, fop := 0x22, finfo := BitVec.ofNat 16 (framed s.ib).length })

/-- `FR.DEC` (42_framer.md rules R123, R127): a well-stuffed body between header and footer is unstuffed; too short,
bad header and bad footer fault in that order; a bad `FE` in the body faults with its index in `IB`. -/
def Obligations.FrDecUnframesOrFaults : Prop :=
  encode .frDec = .one 0x23 ∧
  ∀ s : State, s.flt = 0 →
    (∀ U, s.ib = [0xFE, 0xFE] ++ stuffed U ++ [0xFE, 0x0D] → exec .frDec s = .next { s with ob := U }) ∧
    (s.ib.length < 4 → exec .frDec s = .next { s with flt := 1, fop := 0x23, finfo := 1 }) ∧
    (4 ≤ s.ib.length → s.ib.take 2 ≠ [0xFE, 0xFE] →
      exec .frDec s = .next { s with flt := 1, fop := 0x23, finfo := 2 }) ∧
    (4 ≤ s.ib.length → s.ib.take 2 = [0xFE, 0xFE] → s.ib.drop (s.ib.length - 2) ≠ [0xFE, 0x0D] →
      exec .frDec s = .next { s with flt := 1, fop := 0x23, finfo := 3 }) ∧
    (∀ A rest, s.ib = [0xFE, 0xFE] ++ (stuffed A ++ 0xFE :: rest) ++ [0xFE, 0x0D] → rest.head? ≠ some 0xF0 →
      exec .frDec s =
        .next { s with flt := 3, fop := 0x23, finfo := BitVec.ofNat 16 ((stuffed A).length + 2) })

/-- Unescaping succeeds on exactly the escaped sequences, and gives back what was escaped (42_framer.md rule R128 (a)
and (e)). -/
def Obligations.UnescapeInvertsEscape : Prop :=
  ∀ S T : List Byte, unescape S = .ok T ↔ S = escape T

/-- No body of an encoded frame can imitate a header or a footer (42_framer.md rule R128 (d)). -/
def Obligations.EscapedBytesHoldNoHeaderOrFooter : Prop :=
  ∀ S : List Byte, ¬ [0xFE#8, 0x0D#8] <:+: escape S ∧ ¬ [0xFE#8, 0xFE#8] <:+: escape S

/-- A command framed, moved, unframed, moved, verified and stripped of its checksum is the command again, with its
checksum in `acc` and no fault, for every command whose frame fits (42_framer.md rule R128 (b) and (c), 41_checksum.md
rule R110, 45_host_protocol.md rule R206). -/
def Obligations.FramedCommandComesBackVerified : Prop :=
  (∀ C : List Byte, decodeFrame (encodeFrame C) = .ok (C ++ be16 (checksum C))) ∧
  (∀ s : State, s.flt = 0 → (encodeFrame s.ib).length ≤ s.bufSize →
    issueAll [.frEnc, .bufMov, .frDec, .bufMov, .csVerify, .ibTrim 0x00 0x02] s =
      .next { s with ob := s.ib ++ be16 (checksum s.ib), acc := checksum s.ib })

/-! ### Event record -/

/-- `EV.LOAD` (43_event_record.md rule R140): the first 14 bytes of `IB`, zero filled, and how many there were. -/
def Obligations.EvLoadCopiesAndZeroFills : Prop :=
  encode .evLoad = .one 0x30 ∧
  ∀ s : State, s.flt = 0 → ∃ r,
    exec .evLoad s = .next { s with er := r, ercnt := BitVec.ofNat 4 (min s.ib.length 14) } ∧
    ∀ k < 14, (k < s.ib.length → s.ib[k]? = some (r.byte k)) ∧ (s.ib.length ≤ k → r.byte k = 0x00)

/-- `EV.SETYEAR` (43_event_record.md rule R141), its operand most significant byte first. -/
def Obligations.EvSetyearLoadsTheYear : Prop :=
  ∀ (b1 b2 : Byte) (y : Half), y.toNat = b1.toNat * 256 + b2.toNat →
    encode (.evSetyear y) = .three 0x31 b1 b2 ∧
    ∀ s : State, s.flt = 0 → exec (.evSetyear y) s = .next { s with cy := y }

/-- The fields of the record as divisions and remainders of its bytes, and the two values the document names
(10_state.md rules R20 to R27). -/
def Obligations.RecordFieldsLieWhereTheLayoutSays : Prop :=
  ∀ (s : State) (b : Nat → Nat), (∀ k < 14, b k = (s.er.byte k).toNat) →
    s.monitoringS1.toNat = b 0 % 4 ∧ s.monitoringS2.toNat = b 0 / 4 % 4 ∧
    (s.present = true ↔ b 0 / 16 % 2 = 1) ∧ (s.notEmpty = true ↔ b 0 / 32 % 2 = 1) ∧ s.year.toNat = b 0 / 64 ∧
    s.day.toNat = b 1 % 32 ∧ s.eventClass.toNat = b 1 / 32 ∧
    s.minutesHigh.toNat = b 2 % 16 ∧ s.month.toNat = b 2 / 16 ∧
    s.minutesLow.toNat = b 3 ∧
    s.codeHigh.toNat = b 4 % 4 ∧ (s.restore = true ↔ b 4 / 4 % 2 = 1) ∧ s.partition.toNat = b 4 / 8 ∧
    s.codeLow.toNat = b 5 ∧ s.sourceNumber.toNat = b 6 ∧
    s.userControlNumber.toNat = b 7 % 32 ∧ s.objectNumber.toNat = b 7 / 32 ∧
    monitoringName 3 = some "not monitored" ∧ className 4 = some "access control"

/-- The derived views in natural numbers, with their ranges (10_state.md rules R28 to R32). -/
def Obligations.DerivedViewsFollowTheirFormulas : Prop :=
  ∀ (s : State) (b : Nat → Nat), (∀ k < 14, b k = (s.er.byte k).toNat) →
    s.eventIndexN.toNat = b 8 * 65536 + b 9 * 256 + b 10 ∧
    s.callingEventIndexN.toNat = b 11 * 65536 + b 12 * 256 + b 13 ∧
    s.code.toNat = s.codeHigh.toNat * 256 + s.codeLow.toNat ∧ s.code.toNat ≤ 1023 ∧
    s.minutes.toNat = s.minutesHigh.toNat * 256 + s.minutesLow.toNat ∧ s.minutes.toNat ≤ 4095 ∧
    s.hh.toNat = s.minutes.toNat / 60 ∧ s.hh.toNat ≤ 68 ∧ s.mm.toNat = s.minutes.toNat % 60 ∧ s.mm.toNat ≤ 59 ∧
    s.absYear.toNat = s.cy.toNat - s.cy.toNat % 4 + s.year.toNat

/-- The texts: `time` is two digits, a colon and two digits that stand for the minutes; an index is six hexadecimal
digits, high digit of each byte first (43_event_record.md rules R160 to R162; characters, not codes: log entry 9). -/
def Obligations.TextViewsShowTheirNumbers : Prop :=
  ∀ s : State,
    (∃ h1 h0 m1 m0 : Nat, h1 < 10 ∧ h0 < 10 ∧ m1 < 10 ∧ m0 < 10 ∧
      s.time = [hexDigit h1, hexDigit h0, ':', hexDigit m1, hexDigit m0] ∧
      10 * h1 + h0 = s.minutes.toNat / 60 ∧ 10 * m1 + m0 = s.minutes.toNat % 60) ∧
    (∃ d : List Nat, d.length = 6 ∧ (∀ x ∈ d, x < 16) ∧ s.eventIndexText = d.map hexDigit ∧
      d.foldl (fun n x => n * 16 + x) 0 = s.eventIndexN.toNat) ∧
    (∃ d : List Nat, d.length = 6 ∧ (∀ x ∈ d, x < 16) ∧ s.callingEventIndexText = d.map hexDigit ∧
      d.foldl (fun n x => n * 16 + x) 0 = s.callingEventIndexN.toNat)

/-- While the record still holds what reset left in it (before the first `EV.LOAD`), every field reads zero, the texts
read `00:00` and `000000`, and `abs_year` reads `cy[15:2] * 4` (43_event_record.md rule R142). -/
def Obligations.ViewsBeforeTheFirstLoadReadZero : Prop :=
  ∀ s : State, s.er = State.reset.er →
    s.monitoringS1 = 0 ∧ s.monitoringS2 = 0 ∧ s.present = false ∧ s.notEmpty = false ∧ s.year = 0 ∧
    s.day = 0 ∧ s.eventClass = 0 ∧ s.minutesHigh = 0 ∧ s.month = 0 ∧ s.minutesLow = 0 ∧
    s.codeHigh = 0 ∧ s.restore = false ∧ s.partition = 0 ∧ s.codeLow = 0 ∧ s.sourceNumber = 0 ∧
    s.userControlNumber = 0 ∧ s.objectNumber = 0 ∧ s.eventIndexN = 0 ∧ s.callingEventIndexN = 0 ∧
    s.code = 0 ∧ s.minutes = 0 ∧ s.hh = 0 ∧ s.mm = 0 ∧
    s.time = ['0', '0', ':', '0', '0'] ∧ s.eventIndexText = List.replicate 6 '0' ∧
    s.callingEventIndexText = List.replicate 6 '0' ∧ s.absYear.toNat = s.cy.toNat / 4 * 4

/-! ### Bitset codec -/

/-- `BS.SETOFF` (44_bitset.md rule R172). -/
def Obligations.BsSetoffLoadsTheOffset : Prop :=
  ∀ (v : Byte) (s : State), encode (.bsSetoff v) = .two 0x40 v ∧
    (s.flt = 0 → exec (.bsSetoff v) s = .next { s with boff := v })

/-- `BS.SETLEN` (44_bitset.md rule R173). -/
def Obligations.BsSetlenLoadsTheLength : Prop :=
  ∀ (v : Byte) (s : State), encode (.bsSetlen v) = .two 0x41 v ∧
    (s.flt = 0 → exec (.bsSetlen v) s = .next { s with blen := v })

/-- `PL.CLR` (44_bitset.md rule R174). -/
def Obligations.PlClrEmptiesTheList : Prop :=
  encode .plClr = .one 0x42 ∧ ∀ s : State, s.flt = 0 → exec .plClr s = .next { s with pl := [] }

/-- `PL.PUSH` (44_bitset.md rule R175), its operand most significant byte first: it appends the position with no range
check, or faults on a full list with the length that was needed. -/
def Obligations.PlPushAppendsOrOverflows : Prop :=
  ∀ (b1 b2 : Byte) (p : Half), p.toNat = b1.toNat * 256 + b2.toNat →
    encode (.plPush p) = .three 0x43 b1 b2 ∧
    ∀ s : State,
      (s.flt = 0 → s.pl.length ≠ 8 * s.bufSize → exec (.plPush p) s = .next { s with pl := s.pl ++ [p] }) ∧
      (s.flt = 0 → s.pl.length = 8 * s.bufSize →
        exec (.plPush p) s = .next { s with flt := 4, fop := 0x43, finfo := BitVec.ofNat 16 (8 * s.bufSize + 1) })

/-- `BS.SCAN` (44_bitset.md rules R170, R176): `PL` takes exactly the positions of the set bits of `IB`, strictly
ascending. The buffer is within its capacity, as every step keeps it (StepKeepsStateWellFormed). -/
def Obligations.BsScanListsTheSetBits : Prop :=
  encode .bsScan = .one 0x44 ∧
  ∀ s : State, s.flt = 0 → s.params.wf = true → s.ib.length ≤ s.bufSize →
    ∃ P : List Half, exec .bsScan s = .next { s with pl := P } ∧
      (∀ p : Half, p ∈ P ↔ ∃ i < 8 * s.ib.length, BitSet s.ib i ∧ p.toNat = i + s.boff.toNat) ∧
      P.Pairwise (fun p q => p.toNat < q.toNat)

/-- `BS.PACK` (44_bitset.md rules R171, R177): a buffer of `blen` bytes with exactly the bits of the listed positions;
a length above the capacity faults first; then the first entry of the list that is out of range. -/
def Obligations.BsPackSetsTheListedBitsOrFaults : Prop :=
  encode .bsPack = .one 0x45 ∧
  ∀ (s : State) (inside : Half → Prop), s.flt = 0 →
    (∀ p, inside p ↔ s.boff.toNat ≤ p.toNat ∧ p.toNat < s.boff.toNat + 8 * s.blen.toNat) →
    (s.blen.toNat > s.bufSize →
      exec .bsPack s = .next { s with flt := 4, fop := 0x45, finfo := s.blen.setWidth 16 }) ∧
    (s.blen.toNat ≤ s.bufSize → (∀ p ∈ s.pl, inside p) →
      ∃ B : List Byte, exec .bsPack s = .next { s with ob := B } ∧ B.length = s.blen.toNat ∧
        ∀ i < 8 * s.blen.toNat, BitSet B i ↔ ∃ p ∈ s.pl, p.toNat = i + s.boff.toNat) ∧
    (∀ A p rest, s.blen.toNat ≤ s.bufSize → s.pl = A ++ p :: rest → (∀ q ∈ A, inside q) → ¬ inside p →
      exec .bsPack s = .next { s with flt := 5, fop := 0x45, finfo := p })

/-- The round trips of the codec (44_bitset.md rule R178 (a) and (b)): what was packed scans to the same set, sorted
and free of duplicates, and what was scanned packs to the same buffer. Positions fit in 16 bits, as the capacity
makes sure (00_scope.md rule R5). -/
def Obligations.BitsetRoundTripsBothWays : Prop :=
  (∀ (S : List Half) (n off : Nat) (B : List Byte), off + 8 * n ≤ 65536 → pack S n off = .ok B →
    (∀ p : Half, p ∈ positions B off ↔ p ∈ S) ∧ (positions B off).Pairwise (fun p q => p.toNat < q.toNat)) ∧
  (∀ (B : List Byte) (off : Nat), off + 8 * B.length ≤ 65536 → pack (positions B off) B.length off = .ok B)

/-- `BS.PACK`, `BUF.MOV`, `BS.SCAN` leave in `PL` the sorted duplicate-free form of the old list, provided `BS.PACK`
did not fault (44_bitset.md rule R178 (c)). -/
def Obligations.PackMoveScanSortsTheList : Prop :=
  ∀ (s t : State), s.flt = 0 → s.params.wf = true → exec .bsPack s = .next t → t.flt = 0 →
    ∃ P : List Half, issueAll [.bsPack, .bufMov, .bsScan] s = .next { s with ob := t.ob, ib := t.ob, pl := P } ∧
      (∀ p : Half, p ∈ P ↔ p ∈ s.pl) ∧ P.Pairwise (fun p q => p.toNat < q.toNat)

/-! ### The host's contract -/

/-- Three busy responses use up the default three attempts: whatever would come next, the client surfaces
FramingError and slept 2 ms and 4 ms (45_host_protocol.md rules R192, R207 (a)). -/
def Obligations.ThreeBusyResponsesSurfaceAFramingError : Prop :=
  ∀ (command : List Byte) (more : List HostSide.Reply),
    (HostSide.execute { maxAttempts := 3, baseDelay := 2 } command
      (List.replicate 3 (.response HostSide.busySentinel) ++ more)).2 = (.error (.framingError 2), [2, 4])

/-- A framed response whose first byte is neither the error marker nor the request's opcode raises
ProtocolMismatchError, whatever its checksum (45_host_protocol.md rules R194, R195, R207 (b)). -/
def Obligations.MismatchedEchoIsNeverAccepted : Prop :=
  ∀ (opcode first : Byte) (arguments payload : List Byte), first ≠ 0xEF → first ≠ opcode →
    HostSide.validate (opcode :: arguments) ([0xFE, 0xFE] ++ stuffed (first :: payload) ++ [0xFE, 0x0D]) =
      .error .protocolMismatch
end

