-- ==== Sys2Proof/Laws/Operands.lean ====
section
/-! SUPPORT. The operand helpers: two-byte values, slices, single bytes and bits, the record from bytes. -/

namespace Sys2Proof.Machine

theorem hiByte_toNat (v : Half) : (hiByte v).toNat = v.toNat / 256 := by
  have h := v.isLt
  simp [hiByte, Nat.shiftRight_eq_div_pow]
  omega

theorem loByte_toNat (v : Half) : (loByte v).toNat = v.toNat % 256 := by
  simp [loByte]

/-- Two operand bytes are `b1 * 256 + b2` (30_encoding.md rule R65). -/
theorem imm16_toNat (a b : Byte) : (imm16 a b).toNat = a.toNat * 256 + b.toNat := by
  have ha := a.isLt
  have hb := b.isLt
  simp only [imm16, BitVec.toNat_ofNat]
  omega

theorem imm16_hiByte_loByte (v : Half) : imm16 (hiByte v) (loByte v) = v := by
  apply BitVec.eq_of_toNat_eq
  rw [imm16_toNat, hiByte_toNat, loByte_toNat]
  omega

theorem hiByte_imm16 (a b : Byte) : hiByte (imm16 a b) = a := by
  have hb := b.isLt
  apply BitVec.eq_of_toNat_eq
  rw [hiByte_toNat, imm16_toNat]
  omega

theorem loByte_imm16 (a b : Byte) : loByte (imm16 a b) = b := by
  have hb := b.isLt
  apply BitVec.eq_of_toNat_eq
  rw [loByte_toNat, imm16_toNat]
  omega

@[simp] theorem be16_length (v : Half) : (be16 v).length = 2 := rfl

theorem byteAt_eq_getElem? (S : List Byte) (i : Nat) : byteAt S i = (S[i]?).getD 0 := by
  simp [byteAt, List.getD_eq_getElem?_getD]

@[simp] theorem slice_zero (S : List Byte) (b : Nat) : slice S 0 b = S.take b := rfl

theorem slice_to_end (S : List Byte) (a : Nat) : slice S a S.length = S.drop a := by
  unfold slice
  exact List.take_of_length_le (by simp)

theorem slice_length (S : List Byte) (a b : Nat) : (slice S a b).length = min (b - a) (S.length - a) := by
  simp [slice]

/-- A slice that starts after a prefix and ends before a suffix is what lies between. -/
theorem slice_middle (A B C : List Byte) (a b : Nat) (ha : a = A.length) (hb : b = A.length + B.length) :
    slice (A ++ B ++ C) a b = B := by
  subst ha hb
  simp [slice]

/-- `setBitAt` keeps the length. -/
@[simp] theorem setBitAt_length (S : List Byte) (i : Nat) : (setBitAt S i).length = S.length := by
  simp [setBitAt]

/-- Byte `k` of the record is byte `k` of the input, zero where the input is too short. -/
theorem EventRecord.byte_ofBytes (S : List Byte) (k : Nat) (hk : k < 14) :
    (EventRecord.ofBytes S).byte k = byteAt S k := by
  rcases k with _ | _ | _ | _ | _ | _ | _ | _ | _ | _ | _ | _ | _ | _ | k
  all_goals first | rfl | omega

end Sys2Proof.Machine
end

