-- ==== Sys2Proof/Laws/State.lean ====
section
/-! SUPPORT. One lemma for each field under each update of State, and the fields after reset. Each holds by rfl. -/

namespace Sys2Proof.Machine

variable (s : State)

@[simp] theorem State.setAcc_acc (v : Half) : (s.setAcc v).acc = v := rfl
@[simp] theorem State.setAcc_ib (v : Half) : (s.setAcc v).ib = s.ib := rfl
@[simp] theorem State.setAcc_ob (v : Half) : (s.setAcc v).ob = s.ob := rfl
@[simp] theorem State.setAcc_er (v : Half) : (s.setAcc v).er = s.er := rfl
@[simp] theorem State.setAcc_ercnt (v : Half) : (s.setAcc v).ercnt = s.ercnt := rfl
@[simp] theorem State.setAcc_cy (v : Half) : (s.setAcc v).cy = s.cy := rfl
@[simp] theorem State.setAcc_boff (v : Half) : (s.setAcc v).boff = s.boff := rfl
@[simp] theorem State.setAcc_blen (v : Half) : (s.setAcc v).blen = s.blen := rfl
@[simp] theorem State.setAcc_pl (v : Half) : (s.setAcc v).pl = s.pl := rfl
@[simp] theorem State.setAcc_flt (v : Half) : (s.setAcc v).flt = s.flt := rfl
@[simp] theorem State.setAcc_fop (v : Half) : (s.setAcc v).fop = s.fop := rfl
@[simp] theorem State.setAcc_finfo (v : Half) : (s.setAcc v).finfo = s.finfo := rfl
@[simp] theorem State.setAcc_params (v : Half) : (s.setAcc v).params = s.params := rfl
@[simp] theorem State.setAcc_inputs (v : Half) : (s.setAcc v).inputs = s.inputs := rfl
@[simp] theorem State.setAcc_bufSize (v : Half) : (s.setAcc v).bufSize = s.bufSize := rfl
@[simp] theorem State.setAcc_plSize (v : Half) : (s.setAcc v).plSize = s.plSize := rfl

@[simp] theorem State.setIb_acc (S : List Byte) : (s.setIb S).acc = s.acc := rfl
@[simp] theorem State.setIb_ib (S : List Byte) : (s.setIb S).ib = S := rfl
@[simp] theorem State.setIb_ob (S : List Byte) : (s.setIb S).ob = s.ob := rfl
@[simp] theorem State.setIb_er (S : List Byte) : (s.setIb S).er = s.er := rfl
@[simp] theorem State.setIb_ercnt (S : List Byte) : (s.setIb S).ercnt = s.ercnt := rfl
@[simp] theorem State.setIb_cy (S : List Byte) : (s.setIb S).cy = s.cy := rfl
@[simp] theorem State.setIb_boff (S : List Byte) : (s.setIb S).boff = s.boff := rfl
@[simp] theorem State.setIb_blen (S : List Byte) : (s.setIb S).blen = s.blen := rfl
@[simp] theorem State.setIb_pl (S : List Byte) : (s.setIb S).pl = s.pl := rfl
@[simp] theorem State.setIb_flt (S : List Byte) : (s.setIb S).flt = s.flt := rfl
@[simp] theorem State.setIb_fop (S : List Byte) : (s.setIb S).fop = s.fop := rfl
@[simp] theorem State.setIb_finfo (S : List Byte) : (s.setIb S).finfo = s.finfo := rfl
@[simp] theorem State.setIb_params (S : List Byte) : (s.setIb S).params = s.params := rfl
@[simp] theorem State.setIb_inputs (S : List Byte) : (s.setIb S).inputs = s.inputs := rfl
@[simp] theorem State.setIb_bufSize (S : List Byte) : (s.setIb S).bufSize = s.bufSize := rfl
@[simp] theorem State.setIb_plSize (S : List Byte) : (s.setIb S).plSize = s.plSize := rfl

@[simp] theorem State.setOb_acc (S : List Byte) : (s.setOb S).acc = s.acc := rfl
@[simp] theorem State.setOb_ib (S : List Byte) : (s.setOb S).ib = s.ib := rfl
@[simp] theorem State.setOb_ob (S : List Byte) : (s.setOb S).ob = S := rfl
@[simp] theorem State.setOb_er (S : List Byte) : (s.setOb S).er = s.er := rfl
@[simp] theorem State.setOb_ercnt (S : List Byte) : (s.setOb S).ercnt = s.ercnt := rfl
@[simp] theorem State.setOb_cy (S : List Byte) : (s.setOb S).cy = s.cy := rfl
@[simp] theorem State.setOb_boff (S : List Byte) : (s.setOb S).boff = s.boff := rfl
@[simp] theorem State.setOb_blen (S : List Byte) : (s.setOb S).blen = s.blen := rfl
@[simp] theorem State.setOb_pl (S : List Byte) : (s.setOb S).pl = s.pl := rfl
@[simp] theorem State.setOb_flt (S : List Byte) : (s.setOb S).flt = s.flt := rfl
@[simp] theorem State.setOb_fop (S : List Byte) : (s.setOb S).fop = s.fop := rfl
@[simp] theorem State.setOb_finfo (S : List Byte) : (s.setOb S).finfo = s.finfo := rfl
@[simp] theorem State.setOb_params (S : List Byte) : (s.setOb S).params = s.params := rfl
@[simp] theorem State.setOb_inputs (S : List Byte) : (s.setOb S).inputs = s.inputs := rfl
@[simp] theorem State.setOb_bufSize (S : List Byte) : (s.setOb S).bufSize = s.bufSize := rfl
@[simp] theorem State.setOb_plSize (S : List Byte) : (s.setOb S).plSize = s.plSize := rfl

@[simp] theorem State.setEr_acc (r : EventRecord) (n : BitVec 4) : (s.setEr r n).acc = s.acc := rfl
@[simp] theorem State.setEr_ib (r : EventRecord) (n : BitVec 4) : (s.setEr r n).ib = s.ib := rfl
@[simp] theorem State.setEr_ob (r : EventRecord) (n : BitVec 4) : (s.setEr r n).ob = s.ob := rfl
@[simp] theorem State.setEr_er (r : EventRecord) (n : BitVec 4) : (s.setEr r n).er = r := rfl
@[simp] theorem State.setEr_ercnt (r : EventRecord) (n : BitVec 4) : (s.setEr r n).ercnt = n := rfl
@[simp] theorem State.setEr_cy (r : EventRecord) (n : BitVec 4) : (s.setEr r n).cy = s.cy := rfl
@[simp] theorem State.setEr_boff (r : EventRecord) (n : BitVec 4) : (s.setEr r n).boff = s.boff := rfl
@[simp] theorem State.setEr_blen (r : EventRecord) (n : BitVec 4) : (s.setEr r n).blen = s.blen := rfl
@[simp] theorem State.setEr_pl (r : EventRecord) (n : BitVec 4) : (s.setEr r n).pl = s.pl := rfl
@[simp] theorem State.setEr_flt (r : EventRecord) (n : BitVec 4) : (s.setEr r n).flt = s.flt := rfl
@[simp] theorem State.setEr_fop (r : EventRecord) (n : BitVec 4) : (s.setEr r n).fop = s.fop := rfl
@[simp] theorem State.setEr_finfo (r : EventRecord) (n : BitVec 4) : (s.setEr r n).finfo = s.finfo := rfl
@[simp] theorem State.setEr_params (r : EventRecord) (n : BitVec 4) : (s.setEr r n).params = s.params := rfl
@[simp] theorem State.setEr_inputs (r : EventRecord) (n : BitVec 4) : (s.setEr r n).inputs = s.inputs := rfl
@[simp] theorem State.setEr_bufSize (r : EventRecord) (n : BitVec 4) : (s.setEr r n).bufSize = s.bufSize := rfl
@[simp] theorem State.setEr_plSize (r : EventRecord) (n : BitVec 4) : (s.setEr r n).plSize = s.plSize := rfl

@[simp] theorem State.setCy_acc (v : Half) : (s.setCy v).acc = s.acc := rfl
@[simp] theorem State.setCy_ib (v : Half) : (s.setCy v).ib = s.ib := rfl
@[simp] theorem State.setCy_ob (v : Half) : (s.setCy v).ob = s.ob := rfl
@[simp] theorem State.setCy_er (v : Half) : (s.setCy v).er = s.er := rfl
@[simp] theorem State.setCy_ercnt (v : Half) : (s.setCy v).ercnt = s.ercnt := rfl
@[simp] theorem State.setCy_cy (v : Half) : (s.setCy v).cy = v := rfl
@[simp] theorem State.setCy_boff (v : Half) : (s.setCy v).boff = s.boff := rfl
@[simp] theorem State.setCy_blen (v : Half) : (s.setCy v).blen = s.blen := rfl
@[simp] theorem State.setCy_pl (v : Half) : (s.setCy v).pl = s.pl := rfl
@[simp] theorem State.setCy_flt (v : Half) : (s.setCy v).flt = s.flt := rfl
@[simp] theorem State.setCy_fop (v : Half) : (s.setCy v).fop = s.fop := rfl
@[simp] theorem State.setCy_finfo (v : Half) : (s.setCy v).finfo = s.finfo := rfl
@[simp] theorem State.setCy_params (v : Half) : (s.setCy v).params = s.params := rfl
@[simp] theorem State.setCy_inputs (v : Half) : (s.setCy v).inputs = s.inputs := rfl
@[simp] theorem State.setCy_bufSize (v : Half) : (s.setCy v).bufSize = s.bufSize := rfl
@[simp] theorem State.setCy_plSize (v : Half) : (s.setCy v).plSize = s.plSize := rfl

@[simp] theorem State.setBoff_acc (v : Byte) : (s.setBoff v).acc = s.acc := rfl
@[simp] theorem State.setBoff_ib (v : Byte) : (s.setBoff v).ib = s.ib := rfl
@[simp] theorem State.setBoff_ob (v : Byte) : (s.setBoff v).ob = s.ob := rfl
@[simp] theorem State.setBoff_er (v : Byte) : (s.setBoff v).er = s.er := rfl
@[simp] theorem State.setBoff_ercnt (v : Byte) : (s.setBoff v).ercnt = s.ercnt := rfl
@[simp] theorem State.setBoff_cy (v : Byte) : (s.setBoff v).cy = s.cy := rfl
@[simp] theorem State.setBoff_boff (v : Byte) : (s.setBoff v).boff = v := rfl
@[simp] theorem State.setBoff_blen (v : Byte) : (s.setBoff v).blen = s.blen := rfl
@[simp] theorem State.setBoff_pl (v : Byte) : (s.setBoff v).pl = s.pl := rfl
@[simp] theorem State.setBoff_flt (v : Byte) : (s.setBoff v).flt = s.flt := rfl
@[simp] theorem State.setBoff_fop (v : Byte) : (s.setBoff v).fop = s.fop := rfl
@[simp] theorem State.setBoff_finfo (v : Byte) : (s.setBoff v).finfo = s.finfo := rfl
@[simp] theorem State.setBoff_params (v : Byte) : (s.setBoff v).params = s.params := rfl
@[simp] theorem State.setBoff_inputs (v : Byte) : (s.setBoff v).inputs = s.inputs := rfl
@[simp] theorem State.setBoff_bufSize (v : Byte) : (s.setBoff v).bufSize = s.bufSize := rfl
@[simp] theorem State.setBoff_plSize (v : Byte) : (s.setBoff v).plSize = s.plSize := rfl

@[simp] theorem State.setBlen_acc (v : Byte) : (s.setBlen v).acc = s.acc := rfl
@[simp] theorem State.setBlen_ib (v : Byte) : (s.setBlen v).ib = s.ib := rfl
@[simp] theorem State.setBlen_ob (v : Byte) : (s.setBlen v).ob = s.ob := rfl
@[simp] theorem State.setBlen_er (v : Byte) : (s.setBlen v).er = s.er := rfl
@[simp] theorem State.setBlen_ercnt (v : Byte) : (s.setBlen v).ercnt = s.ercnt := rfl
@[simp] theorem State.setBlen_cy (v : Byte) : (s.setBlen v).cy = s.cy := rfl
@[simp] theorem State.setBlen_boff (v : Byte) : (s.setBlen v).boff = s.boff := rfl
@[simp] theorem State.setBlen_blen (v : Byte) : (s.setBlen v).blen = v := rfl
@[simp] theorem State.setBlen_pl (v : Byte) : (s.setBlen v).pl = s.pl := rfl
@[simp] theorem State.setBlen_flt (v : Byte) : (s.setBlen v).flt = s.flt := rfl
@[simp] theorem State.setBlen_fop (v : Byte) : (s.setBlen v).fop = s.fop := rfl
@[simp] theorem State.setBlen_finfo (v : Byte) : (s.setBlen v).finfo = s.finfo := rfl
@[simp] theorem State.setBlen_params (v : Byte) : (s.setBlen v).params = s.params := rfl
@[simp] theorem State.setBlen_inputs (v : Byte) : (s.setBlen v).inputs = s.inputs := rfl
@[simp] theorem State.setBlen_bufSize (v : Byte) : (s.setBlen v).bufSize = s.bufSize := rfl
@[simp] theorem State.setBlen_plSize (v : Byte) : (s.setBlen v).plSize = s.plSize := rfl

@[simp] theorem State.setPl_acc (P : List Half) : (s.setPl P).acc = s.acc := rfl
@[simp] theorem State.setPl_ib (P : List Half) : (s.setPl P).ib = s.ib := rfl
@[simp] theorem State.setPl_ob (P : List Half) : (s.setPl P).ob = s.ob := rfl
@[simp] theorem State.setPl_er (P : List Half) : (s.setPl P).er = s.er := rfl
@[simp] theorem State.setPl_ercnt (P : List Half) : (s.setPl P).ercnt = s.ercnt := rfl
@[simp] theorem State.setPl_cy (P : List Half) : (s.setPl P).cy = s.cy := rfl
@[simp] theorem State.setPl_boff (P : List Half) : (s.setPl P).boff = s.boff := rfl
@[simp] theorem State.setPl_blen (P : List Half) : (s.setPl P).blen = s.blen := rfl
@[simp] theorem State.setPl_pl (P : List Half) : (s.setPl P).pl = P := rfl
@[simp] theorem State.setPl_flt (P : List Half) : (s.setPl P).flt = s.flt := rfl
@[simp] theorem State.setPl_fop (P : List Half) : (s.setPl P).fop = s.fop := rfl
@[simp] theorem State.setPl_finfo (P : List Half) : (s.setPl P).finfo = s.finfo := rfl
@[simp] theorem State.setPl_params (P : List Half) : (s.setPl P).params = s.params := rfl
@[simp] theorem State.setPl_inputs (P : List Half) : (s.setPl P).inputs = s.inputs := rfl
@[simp] theorem State.setPl_bufSize (P : List Half) : (s.setPl P).bufSize = s.bufSize := rfl
@[simp] theorem State.setPl_plSize (P : List Half) : (s.setPl P).plSize = s.plSize := rfl

@[simp] theorem State.setFault_acc (c o : Byte) (v : Half) : (s.setFault c o v).acc = s.acc := rfl
@[simp] theorem State.setFault_ib (c o : Byte) (v : Half) : (s.setFault c o v).ib = s.ib := rfl
@[simp] theorem State.setFault_ob (c o : Byte) (v : Half) : (s.setFault c o v).ob = s.ob := rfl
@[simp] theorem State.setFault_er (c o : Byte) (v : Half) : (s.setFault c o v).er = s.er := rfl
@[simp] theorem State.setFault_ercnt (c o : Byte) (v : Half) : (s.setFault c o v).ercnt = s.ercnt := rfl
@[simp] theorem State.setFault_cy (c o : Byte) (v : Half) : (s.setFault c o v).cy = s.cy := rfl
@[simp] theorem State.setFault_boff (c o : Byte) (v : Half) : (s.setFault c o v).boff = s.boff := rfl
@[simp] theorem State.setFault_blen (c o : Byte) (v : Half) : (s.setFault c o v).blen = s.blen := rfl
@[simp] theorem State.setFault_pl (c o : Byte) (v : Half) : (s.setFault c o v).pl = s.pl := rfl
@[simp] theorem State.setFault_flt (c o : Byte) (v : Half) : (s.setFault c o v).flt = c := rfl
@[simp] theorem State.setFault_fop (c o : Byte) (v : Half) : (s.setFault c o v).fop = o := rfl
@[simp] theorem State.setFault_finfo (c o : Byte) (v : Half) : (s.setFault c o v).finfo = v := rfl
@[simp] theorem State.setFault_params (c o : Byte) (v : Half) : (s.setFault c o v).params = s.params := rfl
@[simp] theorem State.setFault_inputs (c o : Byte) (v : Half) : (s.setFault c o v).inputs = s.inputs := rfl
@[simp] theorem State.setFault_bufSize (c o : Byte) (v : Half) : (s.setFault c o v).bufSize = s.bufSize := rfl
@[simp] theorem State.setFault_plSize (c o : Byte) (v : Half) : (s.setFault c o v).plSize = s.plSize := rfl

@[simp] theorem State.setInputs_acc (l : List Input) : (s.setInputs l).acc = s.acc := rfl
@[simp] theorem State.setInputs_ib (l : List Input) : (s.setInputs l).ib = s.ib := rfl
@[simp] theorem State.setInputs_ob (l : List Input) : (s.setInputs l).ob = s.ob := rfl
@[simp] theorem State.setInputs_er (l : List Input) : (s.setInputs l).er = s.er := rfl
@[simp] theorem State.setInputs_ercnt (l : List Input) : (s.setInputs l).ercnt = s.ercnt := rfl
@[simp] theorem State.setInputs_cy (l : List Input) : (s.setInputs l).cy = s.cy := rfl
@[simp] theorem State.setInputs_boff (l : List Input) : (s.setInputs l).boff = s.boff := rfl
@[simp] theorem State.setInputs_blen (l : List Input) : (s.setInputs l).blen = s.blen := rfl
@[simp] theorem State.setInputs_pl (l : List Input) : (s.setInputs l).pl = s.pl := rfl
@[simp] theorem State.setInputs_flt (l : List Input) : (s.setInputs l).flt = s.flt := rfl
@[simp] theorem State.setInputs_fop (l : List Input) : (s.setInputs l).fop = s.fop := rfl
@[simp] theorem State.setInputs_finfo (l : List Input) : (s.setInputs l).finfo = s.finfo := rfl
@[simp] theorem State.setInputs_params (l : List Input) : (s.setInputs l).params = s.params := rfl
@[simp] theorem State.setInputs_inputs (l : List Input) : (s.setInputs l).inputs = l := rfl
@[simp] theorem State.setInputs_bufSize (l : List Input) : (s.setInputs l).bufSize = s.bufSize := rfl
@[simp] theorem State.setInputs_plSize (l : List Input) : (s.setInputs l).plSize = s.plSize := rfl

@[simp] theorem State.resetBlock_acc : s.resetBlock.acc = 0x147A := rfl
@[simp] theorem State.resetBlock_ib : s.resetBlock.ib = [] := rfl
@[simp] theorem State.resetBlock_ob : s.resetBlock.ob = [] := rfl
@[simp] theorem State.resetBlock_er : s.resetBlock.er = EventRecord.ofBytes [] := rfl
@[simp] theorem State.resetBlock_ercnt : s.resetBlock.ercnt = 0 := rfl
@[simp] theorem State.resetBlock_cy : s.resetBlock.cy = 0 := rfl
@[simp] theorem State.resetBlock_boff : s.resetBlock.boff = 1 := rfl
@[simp] theorem State.resetBlock_blen : s.resetBlock.blen = 16 := rfl
@[simp] theorem State.resetBlock_pl : s.resetBlock.pl = [] := rfl
@[simp] theorem State.resetBlock_flt : s.resetBlock.flt = 0 := rfl
@[simp] theorem State.resetBlock_fop : s.resetBlock.fop = 0 := rfl
@[simp] theorem State.resetBlock_finfo : s.resetBlock.finfo = 0 := rfl
@[simp] theorem State.resetBlock_params : s.resetBlock.params = s.params := rfl
@[simp] theorem State.resetBlock_inputs : s.resetBlock.inputs = s.inputs := rfl
@[simp] theorem State.resetBlock_bufSize : s.resetBlock.bufSize = s.bufSize := rfl
@[simp] theorem State.resetBlock_plSize : s.resetBlock.plSize = s.plSize := rfl

end Sys2Proof.Machine
end

