-- ==== Sys2Proof/Laws/Ops.lean ====
section
/-! SUPPORT. What the shared operations can do, said once: the frame of an operation, fault entry, and IllegalOp. -/

namespace Sys2Proof.Machine

theorem State.halted_iff (s : State) : s.halted = true ↔ s.flt ≠ 0 := by
  simp [State.halted]

theorem State.halted_false_iff (s : State) : s.halted = false ↔ s.flt = 0 := by
  simp [State.halted]

/-- A ready block takes the effect. -/
theorem operate_ready {s : State} {effect : State → State} (h : s.flt = 0) :
    operate s effect = .next (effect s) := by
  simp [operate, State.halted, h]

/-- A halted block changes nothing. -/
theorem operate_halted {s : State} {effect : State → State} (h : s.flt ≠ 0) : operate s effect = .next s := by
  rw [operate, if_pos (s.halted_iff.mpr h)]

/-- Everything `operate` can do. -/
theorem operate_cases {s t : State} {effect : State → State} (h : operate s effect = .next t) :
    (s.flt ≠ 0 ∧ t = s) ∨ (s.flt = 0 ∧ t = effect s) := by
  by_cases hs : s.flt = 0
  · rw [operate_ready hs] at h
    exact .inr ⟨hs, by cases h; rfl⟩
  · rw [operate_halted hs] at h
    exact .inl ⟨hs, by cases h; rfl⟩

theorem attempt_ok {op : Byte} {s t : State} {effect : State → Except FaultInfo State} (h : s.flt = 0)
    (he : effect s = .ok t) : attempt op s effect = .next t := by
  simp [attempt, operate_ready h, he]

theorem attempt_error {op : Byte} {s : State} {e : FaultInfo} {effect : State → Except FaultInfo State}
    (h : s.flt = 0) (he : effect s = .error e) : attempt op s effect = .next (raise op e s) := by
  simp [attempt, operate_ready h, he]

theorem attempt_halted {op : Byte} {s : State} {effect : State → Except FaultInfo State} (h : s.flt ≠ 0) :
    attempt op s effect = .next s := operate_halted h

/-- Everything `attempt` can do: nothing while halted, the effect, or fault entry. -/
theorem attempt_cases {op : Byte} {s t : State} {effect : State → Except FaultInfo State}
    (h : attempt op s effect = .next t) :
    (s.flt ≠ 0 ∧ t = s) ∨ (s.flt = 0 ∧ effect s = .ok t) ∨
      (s.flt = 0 ∧ ∃ e, effect s = .error e ∧ t = raise op e s) := by
  rcases operate_cases h with h | ⟨hs, rfl⟩
  · exact .inl h
  · cases he : effect s with
    | ok t => exact .inr (.inl ⟨hs, rfl⟩)
    | error e => exact .inr (.inr ⟨hs, e, rfl, rfl⟩)

@[simp] theorem except_map_ok {ε α β : Type} (f : α → β) (a : α) : (Except.ok a : Except ε α).map f = .ok (f a) := rfl

@[simp] theorem except_map_error {ε α β : Type} (f : α → β) (e : ε) :
    (Except.error e : Except ε α).map f = .error e := rfl

@[simp] theorem except_mapError_ok {ε ε' α : Type} (f : ε → ε') (a : α) :
    (Except.ok a : Except ε α).mapError f = .ok a := rfl

@[simp] theorem except_mapError_error {ε ε' α : Type} (f : ε → ε') (e : ε) :
    (Except.error e : Except ε α).mapError f = .error (f e) := rfl

theorem except_map_eq_ok {ε α β : Type} {f : α → β} {x : Except ε α} {b : β} :
    x.map f = .ok b ↔ ∃ a, x = .ok a ∧ f a = b := by
  cases x <;> simp

theorem except_map_eq_error {ε α β : Type} {f : α → β} {x : Except ε α} {e : ε} :
    x.map f = .error e ↔ x = .error e := by
  cases x <;> simp

theorem except_mapError_eq_ok {ε ε' α : Type} {f : ε → ε'} {x : Except ε α} {a : α} :
    x.mapError f = .ok a ↔ x = .ok a := by
  cases x <;> simp

theorem except_mapError_eq_error {ε ε' α : Type} {f : ε → ε'} {x : Except ε α} {e' : ε'} :
    x.mapError f = .error e' ↔ ∃ e, x = .error e ∧ f e = e' := by
  cases x <;> simp

/-- Fault entry as the three registers it writes. -/
theorem raise_eq (op : Byte) (e : FaultInfo) (s : State) :
    raise op e s = s.setFault e.kind.code op (BitVec.ofNat 16 e.info) := rfl

/-- No fault has code 0. -/
theorem FaultKind.code_ne_zero (k : FaultKind) : k.code ≠ 0 := by
  cases k <;> decide

theorem takeIllegalOp_ready {s : State} (w : OpWord) (h : s.flt = 0) :
    takeIllegalOp w s = .next (s.setFault 6 w.opcode (BitVec.ofNat 16 w.length)) := operate_ready h

theorem takeIllegalOp_halted {s : State} (w : OpWord) (h : s.flt ≠ 0) : takeIllegalOp w s = .next s :=
  operate_halted h

end Sys2Proof.Machine
end

