-- ==== Sys2Proof/Laws/Bitset.lean ====
section
/-! SUPPORT. The codec's helpers: one bit set in a buffer, and everything `pack` can do. -/

namespace Sys2Proof.Machine

theorem byteAt_setBitAt (S : List Byte) (i k : Nat) :
    byteAt (setBitAt S i) k =
      if i / 8 = k ∧ k < S.length then byteAt S k ||| (1#8 <<< (i % 8)) else byteAt S k := by
  simp only [byteAt_eq_getElem?, setBitAt, List.getElem?_modify]
  by_cases hk : k < S.length
  · by_cases h : i / 8 = k <;> simp [h, hk]
  · simp [hk]

/-- Setting bit `i` sets that bit and no other (20_memory.md rule R46). -/
theorem bitAt_setBitAt (S : List Byte) (i j : Nat) (hj : j < 8 * S.length) :
    bitAt (setBitAt S i) j = (bitAt S j || decide (j = i)) := by
  simp only [bitAt, byteAt_setBitAt]
  by_cases h : i / 8 = j / 8
  · rw [if_pos ⟨h, by omega⟩]
    simp only [BitVec.getLsbD_or]
    have : (1#8 <<< (i % 8)).getLsbD (j % 8) = decide (j = i) := by
      have hi : i % 8 < 8 := Nat.mod_lt _ (by decide)
      have hj8 : j % 8 < 8 := Nat.mod_lt _ (by decide)
      rw [show decide (j = i) = decide (j % 8 = i % 8) by simp; omega]
      have key : ∀ a < 8, ∀ b < 8, (1#8 <<< a).getLsbD b = decide (b = a) := by decide
      exact key _ hi _ hj8
    rw [this]
  · rw [if_neg (fun hh => h hh.1)]
    have : j ≠ i := fun hh => h (by rw [hh])
    simp [this]

/-- The folds of `pack`: the length stays, and a bit is set when it was or when an entry names it. -/
theorem foldl_setBitAt (P : List Half) (off : Nat) (B : List Byte) :
    (P.foldl (fun B p => setBitAt B (p.toNat - off)) B).length = B.length ∧
    ∀ j < 8 * B.length, bitAt (P.foldl (fun B p => setBitAt B (p.toNat - off)) B) j =
      (bitAt B j || P.any (fun p => decide (j = p.toNat - off))) := by
  induction P generalizing B with
  | nil => simp
  | cons p P ih =>
    obtain ⟨h1, h2⟩ := ih (setBitAt B (p.toNat - off))
    refine ⟨by simpa using h1, fun j hj => ?_⟩
    rw [List.foldl_cons, h2 j (by simpa using hj), bitAt_setBitAt _ _ _ hj]
    simp [Bool.or_assoc]

/-- Everything `pack` can do: the buffer with exactly the listed bits, or the first entry that is out of range. -/
theorem pack_cases (P : List Half) (n off : Nat) :
    (∃ B, pack P n off = .ok B ∧ (∀ p ∈ P, inRange n off p = true) ∧ B.length = n ∧
      ∀ j < 8 * n, bitAt B j = P.any (fun p => decide (j = p.toNat - off))) ∨
    (∃ A p R, P = A ++ p :: R ∧ (∀ q ∈ A, inRange n off q = true) ∧ inRange n off p = false ∧
      pack P n off = .error { kind := .rangeError, info := p.toNat }) := by
  unfold pack
  cases hf : P.find? (fun p => !inRange n off p) with
  | none =>
    obtain ⟨h1, h2⟩ := foldl_setBitAt P off (List.replicate n 0)
    refine .inl ⟨_, rfl, by simpa using List.find?_eq_none.mp hf, by simpa using h1, fun j hj => ?_⟩
    rw [h2 j (by simpa using hj)]
    have : bitAt (List.replicate n 0#8) j = false := by
      simp [bitAt, byteAt_eq_getElem?, List.getElem?_replicate]
      split <;> simp
    rw [show List.replicate n (0 : Byte) = List.replicate n 0#8 from rfl, this, Bool.false_or]
  | some p =>
    obtain ⟨hp, A, R, rfl, hA⟩ := List.find?_eq_some_iff_append.mp hf
    exact .inr ⟨A, p, R, rfl, by simpa using hA, by simpa using hp, rfl⟩

/-- A scan lists at most one position for each bit (44_bitset.md rule R176). -/
theorem positions_length_le (B : List Byte) (off : Nat) : (positions B off).length ≤ 8 * B.length := by
  unfold positions
  rw [List.length_map]
  exact (List.length_filter_le _ _).trans (by simp)

/-- The members of a scan, where every position fits in 16 bits (44_bitset.md rule R170). -/
theorem mem_positions (B : List Byte) (off : Nat) (h : off + 8 * B.length ≤ 65536) (p : Half) :
    p ∈ positions B off ↔ ∃ i < 8 * B.length, bitAt B i = true ∧ p.toNat = i + off := by
  simp only [positions, List.mem_map, List.mem_filter, List.mem_range]
  constructor
  · rintro ⟨i, ⟨h1, h2⟩, rfl⟩
    exact ⟨i, h1, h2, by simp; omega⟩
  · rintro ⟨i, h1, h2, h3⟩
    exact ⟨i, ⟨h1, h2⟩, by rw [← h3]; simp⟩

end Sys2Proof.Machine
end

