-- ==== Sys2Proof/Laws/Checksum.lean ====
section
/-! SUPPORT. The checksum functions: one step in natural numbers, the fold, and everything the verification of a
payload can do. -/

namespace Sys2Proof.Machine

theorem rotl16_toNat (v : Half) : (rotl16 v).toNat = v.toNat * 2 % 65536 + v.toNat / 32768 := by
  have h := v.isLt
  have hor : (v.toNat * 2 % 65536) ||| (v.toNat / 32768) = v.toNat * 2 % 65536 + v.toNat / 32768 := by
    have h2 : v.toNat * 2 % 65536 = 2 ^ 1 * (v.toNat % 32768) := by omega
    rw [h2, Nat.two_pow_add_eq_or_of_lt (by omega)]
  simp only [rotl16, BitVec.toNat_or, BitVec.toNat_shiftLeft, BitVec.toNat_ushiftRight, Nat.shiftLeft_eq,
    Nat.shiftRight_eq_div_pow]
  exact hor

theorem csStep_toNat (a : Half) (b : Byte) :
    (csStep a b).toNat =
      ((65535 - (rotl16 a).toNat) + (65535 - (rotl16 a).toNat) / 256 + b.toNat) % 65536 := by
  have hb := b.isLt
  have hr := (rotl16 a).isLt
  simp only [csStep, BitVec.toNat_add, BitVec.toNat_not, BitVec.toNat_ushiftRight, BitVec.toNat_setWidth,
    Nat.shiftRight_eq_div_pow]
  omega

theorem checksum_append (S T : List Byte) : checksum (S ++ T) = T.foldl csStep (checksum S) := by
  simp [checksum, List.foldl_append]

/-- A payload of fewer than two bytes fails with the checksum of nothing. -/
theorem verifyPayload_short {S : List Byte} (h : S.length < 2) :
    verifyPayload S = .error { kind := .checksumError, info := 0x147A } := by
  simp [verifyPayload, h, Config.csInit]

/-- A payload with two trailing bytes: the checksum of what stands before them, or the fault with it. -/
theorem verifyPayload_append (C : List Byte) (hi lo : Byte) :
    verifyPayload (C ++ [hi, lo]) =
      if checksum C = imm16 hi lo then .ok (checksum C)
      else .error { kind := .checksumError, info := (checksum C).toNat } := by
  have h1 : byteAt (C ++ [hi, lo]) C.length = hi := by simp [byteAt_eq_getElem?]
  have h2 : byteAt (C ++ [hi, lo]) (C.length + 1) = lo := by simp [byteAt_eq_getElem?]
  simp [verifyPayload, half16At, h1, h2]

/-- Everything the verification of a payload can do. -/
theorem verifyPayload_cases (S : List Byte) :
    (S.length < 2 ∧ verifyPayload S = .error { kind := .checksumError, info := 0x147A }) ∨
    (∃ C hi lo, S = C ++ [hi, lo] ∧ checksum C = imm16 hi lo ∧ verifyPayload S = .ok (checksum C)) ∨
    (∃ C hi lo, S = C ++ [hi, lo] ∧ checksum C ≠ imm16 hi lo ∧
      verifyPayload S = .error { kind := .checksumError, info := (checksum C).toNat }) := by
  by_cases h : S.length < 2
  · exact .inl ⟨h, verifyPayload_short h⟩
  · obtain ⟨C, hi, lo, rfl⟩ : ∃ C hi lo, S = C ++ [hi, lo] := by
      refine ⟨S.take (S.length - 2), S[S.length - 2], S[S.length - 1], ?_⟩
      apply List.ext_getElem?
      intro i
      by_cases hi : i < S.length - 2
      · simp [List.getElem?_append, hi]
      · rw [List.getElem?_append_right (by simp; omega)]
        rcases (show i = S.length - 2 ∨ i = S.length - 1 ∨ S.length ≤ i by omega) with rfl | rfl | hge
        · simp
        · rw [List.getElem?_eq_getElem (by omega)]
          simp [show S.length - 1 - (S.length - 2) = 1 by omega]
        · rw [List.getElem?_eq_none hge, List.getElem?_eq_none (by simp; omega)]
    rw [verifyPayload_append]
    by_cases hc : checksum C = imm16 hi lo
    · exact .inr (.inl ⟨C, hi, lo, rfl, hc, if_pos hc⟩)
    · exact .inr (.inr ⟨C, hi, lo, rfl, hc, if_neg hc⟩)

end Sys2Proof.Machine
end

