-- ==== Sys2Proof/Laws/Control.lean ====
section
/-! SUPPORT. The trimming of a buffer. -/

namespace Sys2Proof.Machine

/-- What is left of a buffer after its first `f` and last `l` bytes are dropped (40_control_buffer.md rule R96). -/
theorem trim_length (S : List Byte) (f l : Nat) : (trim S f l).length = S.length - (f + l) := by
  unfold trim
  split
  · simp
    omega
  · rw [slice_length]
    omega

/-- Trimming is dropping and taking, whatever the counts. -/
theorem trim_eq (S : List Byte) (f l : Nat) : trim S f l = (S.drop f).take (S.length - l - f) := by
  unfold trim
  split
  · rw [show S.length - l - f = 0 by omega]
    simp
  · rfl

end Sys2Proof.Machine
end

