-- ==== Sys2Proof/Laws/Decode.lean ====
section
/-! SUPPORT. What the decoder can answer, and the numbers of words. -/

namespace Sys2Proof

theorem decode_ok_iff {w : OpWord} {i : Instr} : decode w = .ok i ↔ decodeWord w = some i := by
  unfold decode
  cases decodeWord w <;> simp

theorem decode_error_iff {w : OpWord} : (∃ e, decode w = .error e) ↔ decodeWord w = none := by
  unfold decode
  cases decodeWord w <;> simp

theorem OpWord.bytes_length (w : OpWord) : w.bytes.length = w.length := by
  cases w <;> rfl

theorem OpWord.ofBytes_bytes (w : OpWord) : OpWord.ofBytes w.bytes = some w := by
  cases w <;> rfl

/-- The bits of a word, in the table's numbering, give the word back. -/
theorem OpWord.ofBits_number (w : OpWord) : OpWord.ofBits (8 * w.length) w.number = some w := by
  cases w with
  | one a => simp [OpWord.ofBits, OpWord.length, OpWord.number]
  | two a b =>
    have hb := b.isLt
    have h1 : (a.toNat * 256 + b.toNat) / 256 = a.toNat := by omega
    simp only [OpWord.ofBits, OpWord.length, OpWord.number, h1, BitVec.ofNat_toNat, BitVec.setWidth_eq]
    congr 2
    apply BitVec.eq_of_toNat_eq
    simp only [BitVec.toNat_ofNat]
    omega
  | three a b c =>
    have hb := b.isLt
    have hc := c.isLt
    have h1 : (a.toNat * 65536 + b.toNat * 256 + c.toNat) / 65536 = a.toNat := by omega
    simp only [OpWord.ofBits, OpWord.length, OpWord.number, h1, BitVec.ofNat_toNat, BitVec.setWidth_eq]
    congr 2 <;> apply BitVec.eq_of_toNat_eq <;> simp only [BitVec.toNat_ofNat] <;> omega

end Sys2Proof
end

