-- ==== Sys2Proof/Laws/Framer.lean ====
section
/-! SUPPORT. The stuffing functions over append, the scan over a well-stuffed prefix, and everything the decoding of
a frame can do. -/

namespace Sys2Proof.Machine

theorem escape_cons (b : Byte) (S : List Byte) :
    escape (b :: S) = (if b = Config.esc then [Config.esc, Config.escSub] else [b]) ++ escape S := by
  by_cases h : b = Config.esc <;> simp [escape, h]

theorem escape_append (S T : List Byte) : escape (S ++ T) = escape S ++ escape T := by
  induction S with
  | nil => rfl
  | cons b S ih => simp [escape_cons, ih]

/-- The scan over a pair `FE F0`. -/
theorem unescapeFrom_pair (i : Nat) (R : List Byte) :
    unescapeFrom i (Config.esc :: Config.escSub :: R) =
      (unescapeFrom (i + 2) R).map (fun T => Config.esc :: T) := by
  simp [unescapeFrom]

/-- The scan over a byte other than `FE`. -/
theorem unescapeFrom_plain (i : Nat) {b : Byte} (h : b ≠ Config.esc) (R : List Byte) :
    unescapeFrom i (b :: R) = (unescapeFrom (i + 1) R).map (fun T => b :: T) := by
  cases R <;> simp [unescapeFrom, h, Except.map]

/-- The scan over an `FE` that `F0` does not follow. -/
theorem unescapeFrom_bad (i : Nat) {R : List Byte} (h : R.head? ≠ some Config.escSub) :
    unescapeFrom i (Config.esc :: R) = .error i := by
  cases R with
  | nil => simp [unescapeFrom]
  | cons c R =>
    have hc : c ≠ Config.escSub := by simpa using h
    simp [unescapeFrom, hc]

/-- The scan goes through a well-stuffed prefix and gives it back unstuffed. -/
theorem unescapeFrom_escape_append (i : Nat) (A R : List Byte) :
    unescapeFrom i (escape A ++ R) = (unescapeFrom (i + (escape A).length) R).map (fun T => A ++ T) := by
  induction A generalizing i with
  | nil =>
    simp only [escape, List.nil_append, List.length_nil, Nat.add_zero]
    cases unescapeFrom i R <;> rfl
  | cons b A ih =>
    by_cases h : b = Config.esc
    · subst h
      simp only [escape, if_true, List.cons_append, unescapeFrom_pair, ih, List.length_cons]
      rw [show i + ((escape A).length + 1 + 1) = i + 2 + (escape A).length by omega]
      cases unescapeFrom _ R <;> rfl
    · simp only [escape, h, if_false, List.cons_append, unescapeFrom_plain i h, ih, List.length_cons]
      rw [show i + ((escape A).length + 1) = i + 1 + (escape A).length by omega]
      cases unescapeFrom _ R <;> rfl

/-- Every byte sequence is well stuffed, or well stuffed up to an `FE` that `F0` does not follow. -/
theorem stuffed_or_bad (S : List Byte) :
    (∃ T, S = escape T) ∨ (∃ A R, S = escape A ++ Config.esc :: R ∧ R.head? ≠ some Config.escSub) := by
  induction hn : S.length using Nat.strongRecOn generalizing S with
  | ind n ih =>
    match S, hn with
    | [], _ => exact .inl ⟨[], rfl⟩
    | b :: R, hn =>
      by_cases h : b = Config.esc
      · subst h
        by_cases hr : R.head? = some Config.escSub
        · obtain ⟨R', rfl⟩ : ∃ R', R = Config.escSub :: R' := by
            cases R with
            | nil => simp at hr
            | cons c R => exact ⟨R, by simpa using hr⟩
          rcases ih R'.length (by simp at hn; omega) R' rfl with ⟨T, hT⟩ | ⟨A, R2, hA, h2⟩
          · exact .inl ⟨Config.esc :: T, by rw [hT]; simp [escape]⟩
          · exact .inr ⟨Config.esc :: A, R2, by rw [hA]; simp [escape], h2⟩
        · exact .inr ⟨[], R, rfl, hr⟩
      · rcases ih R.length (by simp at hn; omega) R rfl with ⟨T, hT⟩ | ⟨A, R2, hA, h2⟩
        · exact .inl ⟨b :: T, by rw [hT]; simp [escape, h]⟩
        · exact .inr ⟨b :: A, R2, by rw [hA]; simp [escape, h], h2⟩

/-- Everything `unescape` can do. -/
theorem unescape_cases (S : List Byte) :
    (∃ T, S = escape T ∧ unescape S = .ok T) ∨
    (∃ A R, S = escape A ++ Config.esc :: R ∧ R.head? ≠ some Config.escSub ∧
      unescape S = .error (escape A).length) := by
  rcases stuffed_or_bad S with ⟨T, rfl⟩ | ⟨A, R, rfl, hR⟩
  · refine .inl ⟨T, rfl, ?_⟩
    have := unescapeFrom_escape_append 0 T []
    simpa [unescape, unescapeFrom, Except.map] using this
  · refine .inr ⟨A, R, rfl, hR, ?_⟩
    simp [unescape, unescapeFrom_escape_append, unescapeFrom_bad _ hR, Except.map]

theorem escape_length (S : List Byte) : (escape S).length = S.length + S.count Config.esc := by
  induction S with
  | nil => rfl
  | cons b S ih =>
    by_cases h : b = Config.esc
    · simp [escape, h, ih]; omega
    · simp [escape, h, ih]; omega

/-- A frame's body lies between its first two and its last two bytes. -/
theorem slice_body (B : List Byte) :
    slice (Config.hdr ++ B ++ Config.ftr) 2 ((Config.hdr ++ B ++ Config.ftr).length - 2) = B :=
  slice_middle _ _ _ _ _ rfl (by simp [Config.hdr, Config.ftr]; omega)

/-- The decoding of anything between a header and a footer is the unescaping of the body. -/
theorem decodeFrame_framed (B : List Byte) :
    decodeFrame (Config.hdr ++ B ++ Config.ftr) =
      (unescape B).mapError (fun i => { kind := .escapeError, info := i + 2 }) := by
  have hlen : (Config.hdr ++ B ++ Config.ftr).length = B.length + 4 := by
    simp [Config.hdr, Config.ftr]
  have hd : slice (Config.hdr ++ B ++ Config.ftr) 0 2 = Config.hdr := by simp [slice, Config.hdr]
  have ft : slice (Config.hdr ++ B ++ Config.ftr) ((Config.hdr ++ B ++ Config.ftr).length - 2)
      (Config.hdr ++ B ++ Config.ftr).length = Config.ftr := by
    rw [slice_to_end, hlen]
    simp [Config.hdr, Config.ftr]
  unfold decodeFrame
  simp only [hd, ft, slice_body]
  rw [if_neg (by omega), if_neg (by simp), if_neg (by simp)]

/-- An unescaped sequence is never longer (42_framer.md rule R125). -/
theorem unescape_length {S T : List Byte} (h : unescape S = .ok T) : T.length ≤ S.length := by
  rcases unescape_cases S with ⟨T', rfl, h2⟩ | ⟨A, R, -, -, h2⟩
  · rw [h2] at h
    cases h
    rw [escape_length]
    omega
  · rw [h2] at h
    cases h

/-- Everything the decoding of a frame can do, in the order of its tests. -/
theorem decodeFrame_cases (R : List Byte) :
    (R.length < 4 ∧ decodeFrame R = .error { kind := .framingError, info := 1 }) ∨
    (4 ≤ R.length ∧ R.take 2 ≠ [0xFE, 0xFE] ∧ decodeFrame R = .error { kind := .framingError, info := 2 }) ∨
    (4 ≤ R.length ∧ R.take 2 = [0xFE, 0xFE] ∧ R.drop (R.length - 2) ≠ [0xFE, 0x0D] ∧
      decodeFrame R = .error { kind := .framingError, info := 3 }) ∨
    (∃ B, R = [0xFE, 0xFE] ++ B ++ [0xFE, 0x0D] ∧
      decodeFrame R =
        (unescape B).mapError (fun i => { kind := .escapeError, info := i + 2 })) := by
  by_cases h1 : R.length < 4
  · exact .inl ⟨h1, by simp [decodeFrame, h1]⟩
  by_cases h2 : R.take 2 = [0xFE, 0xFE]
  · by_cases h3 : R.drop (R.length - 2) = [0xFE, 0x0D]
    · refine .inr (.inr (.inr ⟨slice R 2 (R.length - 2), ?_⟩))
      have hR : R = [0xFE, 0xFE] ++ slice R 2 (R.length - 2) ++ [0xFE, 0x0D] := by
        have e1 : slice R 2 (R.length - 2) ++ R.drop (R.length - 2) = R.drop 2 := by
          unfold slice
          conv_rhs => rw [← List.take_append_drop (R.length - 2 - 2) (R.drop 2)]
          rw [List.drop_drop]
          congr 2
          omega
        rw [← h2, ← h3, List.append_assoc, e1, List.take_append_drop]
      refine ⟨hR, ?_⟩
      conv_lhs => rw [hR]
      exact decodeFrame_framed _
    · refine .inr (.inr (.inl ⟨by omega, h2, h3, ?_⟩))
      unfold decodeFrame
      dsimp only
      rw [slice_to_end]
      rw [if_neg h1, if_neg (by simpa [Config.hdr] using h2), if_pos (by simpa [Config.ftr] using h3)]
  · refine .inr (.inl ⟨by omega, h2, ?_⟩)
    unfold decodeFrame
    dsimp only
    rw [if_neg h1, if_pos (by simpa [Config.hdr] using h2)]

/-- A decoded payload is never longer than the raw frame (42_framer.md rule R127). -/
theorem decodeFrame_length {S T : List Byte} (h : decodeFrame S = .ok T) : T.length ≤ S.length := by
  rcases decodeFrame_cases S with ⟨-, h2⟩ | ⟨-, -, h2⟩ | ⟨-, -, -, h2⟩ | ⟨B, hB, h2⟩ <;> rw [h2] at h
  · cases h
  · cases h
  · cases h
  · cases hu : unescape B with
    | ok U =>
      rw [hu] at h
      cases h
      have := unescape_length hu
      rw [hB]
      simp
      omega
    | error i =>
      rw [hu] at h
      cases h

end Sys2Proof.Machine
end

