-- ==== Sys2Proof/Laws/Exec.lean ====
section
/-! SUPPORT. The arm of each operation as its frame and its effect, so that `operate_ready`, `attempt_ok` and
`attempt_error` apply without unfolding `exec`. -/

namespace Sys2Proof.Machine

variable (s : State)

theorem exec_nop : exec .nop s = operate s (fun s => s) := rfl

theorem exec_rst : exec .rst s = .next s.resetBlock := rfl

theorem exec_ibClr : exec .ibClr s = operate s (fun s => s.setIb []) := rfl

theorem exec_ibPush (v : Byte) : exec (.ibPush v) s = attempt 0x03 s (fun s =>
    if s.ib.length = s.bufSize then .error { kind := .bufferOverflow, info := s.ib.length + 1 }
    else .ok (s.setIb (s.ib ++ [v]))) := rfl

theorem exec_bufMov : exec .bufMov s = operate s (fun s => s.setIb s.ob) := rfl

theorem exec_ibTrim (f l : Byte) :
    exec (.ibTrim f l) s = operate s (fun s => s.setIb (trim s.ib f.toNat l.toNat)) := rfl

theorem exec_csInit : exec .csInit s = operate s (fun s => s.setAcc 0x147A) := rfl

theorem exec_csStep (v : Byte) : exec (.csStep v) s = operate s (fun s => s.setAcc (csStep s.acc v)) := rfl

theorem exec_csBuf : exec .csBuf s = operate s (fun s => s.setAcc (checksum s.ib)) := rfl

theorem exec_csAppend : exec .csAppend s = attempt 0x13 s (fun s =>
    if s.ib.length + 2 > s.bufSize then .error { kind := .bufferOverflow, info := s.ib.length + 2 }
    else .ok (s.setIb (s.ib ++ be16 s.acc))) := rfl

theorem exec_csVerify : exec .csVerify s = attempt 0x14 s (fun s =>
    (verifyPayload s.ib).map s.setAcc) := rfl

theorem exec_frEsc : exec .frEsc s = attempt 0x20 s (fun s =>
    if (escape s.ib).length > s.bufSize then .error { kind := .bufferOverflow, info := (escape s.ib).length }
    else .ok (s.setOb (escape s.ib))) := rfl

theorem exec_frUnesc : exec .frUnesc s = attempt 0x21 s (fun s =>
    ((unescape s.ib).mapError (fun i => { kind := .escapeError, info := i })).map s.setOb) := rfl

theorem exec_frEnc : exec .frEnc s = attempt 0x22 s (fun s =>
    if (encodeFrame s.ib).length > s.bufSize then
      .error { kind := .bufferOverflow, info := (encodeFrame s.ib).length }
    else .ok ((s.setOb (encodeFrame s.ib)).setAcc (checksum s.ib))) := rfl

theorem exec_frDec : exec .frDec s = attempt 0x23 s (fun s =>
    (decodeFrame s.ib).map s.setOb) := rfl

theorem exec_evLoad : exec .evLoad s =
    operate s (fun s => s.setEr (EventRecord.ofBytes s.ib) (BitVec.ofNat 4 (min s.ib.length 14))) := rfl

theorem exec_evSetyear (y : Half) : exec (.evSetyear y) s = operate s (fun s => s.setCy y) := rfl

theorem exec_bsSetoff (v : Byte) : exec (.bsSetoff v) s = operate s (fun s => s.setBoff v) := rfl

theorem exec_bsSetlen (v : Byte) : exec (.bsSetlen v) s = operate s (fun s => s.setBlen v) := rfl

theorem exec_plClr : exec .plClr s = operate s (fun s => s.setPl []) := rfl

theorem exec_plPush (p : Half) : exec (.plPush p) s = attempt 0x43 s (fun s =>
    if s.pl.length = s.plSize then .error { kind := .bufferOverflow, info := s.pl.length + 1 }
    else .ok (s.setPl (s.pl ++ [p]))) := rfl

theorem exec_bsScan : exec .bsScan s = operate s (fun s => s.setPl (positions s.ib s.boff.toNat)) := rfl

theorem exec_bsPack : exec .bsPack s = attempt 0x45 s (fun s =>
    if s.blen.toNat > s.bufSize then .error { kind := .bufferOverflow, info := s.blen.toNat }
    else (pack s.pl s.blen.toNat s.boff.toNat).map s.setOb) := rfl

end Sys2Proof.Machine
end

