-- ==== Sys2Proof/Laws/PerInstr.lean ====
section
/-! SUPPORT. Statements made for every operation, one lemma for each constructor. -/

namespace Sys2Proof.Laws

/-- The word of an operation agrees with its row of the opcode table: mnemonic, length, opcode byte
(30_encoding.md rules R64, R66). -/
def EncodesToItsRow.Statement (i : Instr) : Prop :=
  ∃ r ∈ opcodeTable, r.mnemonic = i.mnemonic ∧ (encode i).length = r.format.length ∧
    (encode i).opcode.toNat * 256 ^ (r.format.length - 1) = r.pattern

/-- A row found at index `n` of the table is one of its rows. -/
theorem EncodesToItsRow.of_index (n : Nat) {i : Instr} {r : OpcodeRow} (hr : opcodeTable[n]? = some r)
    (hm : r.mnemonic = i.mnemonic) (hl : (encode i).length = r.format.length)
    (ho : (encode i).opcode.toNat * 256 ^ (r.format.length - 1) = r.pattern) : EncodesToItsRow.Statement i :=
  ⟨r, List.mem_of_getElem? hr, hm, hl, ho⟩

theorem EncodesToItsRow.nop : EncodesToItsRow.Statement .nop :=
  EncodesToItsRow.of_index 0 rfl rfl rfl rfl

theorem EncodesToItsRow.rst : EncodesToItsRow.Statement .rst :=
  EncodesToItsRow.of_index 1 rfl rfl rfl rfl

theorem EncodesToItsRow.ibClr : EncodesToItsRow.Statement .ibClr :=
  EncodesToItsRow.of_index 2 rfl rfl rfl rfl

theorem EncodesToItsRow.ibPush (v : Byte) : EncodesToItsRow.Statement (.ibPush v) :=
  EncodesToItsRow.of_index 3 rfl rfl rfl (by simp [encode, OpWord.opcode, Format.length])

theorem EncodesToItsRow.bufMov : EncodesToItsRow.Statement .bufMov :=
  EncodesToItsRow.of_index 4 rfl rfl rfl rfl

theorem EncodesToItsRow.ibTrim (f l : Byte) : EncodesToItsRow.Statement (.ibTrim f l) :=
  EncodesToItsRow.of_index 5 rfl rfl rfl (by simp [encode, OpWord.opcode, Format.length])

theorem EncodesToItsRow.csInit : EncodesToItsRow.Statement .csInit :=
  EncodesToItsRow.of_index 6 rfl rfl rfl rfl

theorem EncodesToItsRow.csStep (v : Byte) : EncodesToItsRow.Statement (.csStep v) :=
  EncodesToItsRow.of_index 7 rfl rfl rfl (by simp [encode, OpWord.opcode, Format.length])

theorem EncodesToItsRow.csBuf : EncodesToItsRow.Statement .csBuf :=
  EncodesToItsRow.of_index 8 rfl rfl rfl rfl

theorem EncodesToItsRow.csAppend : EncodesToItsRow.Statement .csAppend :=
  EncodesToItsRow.of_index 9 rfl rfl rfl rfl

theorem EncodesToItsRow.csVerify : EncodesToItsRow.Statement .csVerify :=
  EncodesToItsRow.of_index 10 rfl rfl rfl rfl

theorem EncodesToItsRow.frEsc : EncodesToItsRow.Statement .frEsc :=
  EncodesToItsRow.of_index 11 rfl rfl rfl rfl

theorem EncodesToItsRow.frUnesc : EncodesToItsRow.Statement .frUnesc :=
  EncodesToItsRow.of_index 12 rfl rfl rfl rfl

theorem EncodesToItsRow.frEnc : EncodesToItsRow.Statement .frEnc :=
  EncodesToItsRow.of_index 13 rfl rfl rfl rfl

theorem EncodesToItsRow.frDec : EncodesToItsRow.Statement .frDec :=
  EncodesToItsRow.of_index 14 rfl rfl rfl rfl

theorem EncodesToItsRow.evLoad : EncodesToItsRow.Statement .evLoad :=
  EncodesToItsRow.of_index 15 rfl rfl rfl rfl

theorem EncodesToItsRow.evSetyear (y : Half) : EncodesToItsRow.Statement (.evSetyear y) :=
  EncodesToItsRow.of_index 16 rfl rfl rfl (by simp [encode, OpWord.opcode, Format.length])

theorem EncodesToItsRow.bsSetoff (v : Byte) : EncodesToItsRow.Statement (.bsSetoff v) :=
  EncodesToItsRow.of_index 17 rfl rfl rfl (by simp [encode, OpWord.opcode, Format.length])

theorem EncodesToItsRow.bsSetlen (v : Byte) : EncodesToItsRow.Statement (.bsSetlen v) :=
  EncodesToItsRow.of_index 18 rfl rfl rfl (by simp [encode, OpWord.opcode, Format.length])

theorem EncodesToItsRow.plClr : EncodesToItsRow.Statement .plClr :=
  EncodesToItsRow.of_index 19 rfl rfl rfl rfl

theorem EncodesToItsRow.plPush (p : Half) : EncodesToItsRow.Statement (.plPush p) :=
  EncodesToItsRow.of_index 20 rfl rfl rfl (by simp [encode, OpWord.opcode, Format.length])

theorem EncodesToItsRow.bsScan : EncodesToItsRow.Statement .bsScan :=
  EncodesToItsRow.of_index 21 rfl rfl rfl rfl

theorem EncodesToItsRow.bsPack : EncodesToItsRow.Statement .bsPack :=
  EncodesToItsRow.of_index 22 rfl rfl rfl rfl

end Sys2Proof.Laws
end

