-- ==== Sys2Proof/Laws/Step.lean ====
section
/-! SUPPORT. What a step does for each kind of input, and a run of the host's machine taken apart. -/

namespace Sys2Proof.Machine

theorem step_idle {s : State} (h : s.inputs = []) : step s = .next s := by
  simp [step, stepPort, h]

theorem step_word {s : State} {w : OpWord} {rest : List Input} (h : s.inputs = .word w :: rest) :
    step s = issue w (s.setInputs rest) := by
  simp [step, stepPort, h]

theorem step_resetLine {s : State} {rest : List Input} (h : s.inputs = .resetLine :: rest) :
    step s = .next (s.setInputs rest).resetBlock := by
  simp [step, stepPort, h]

theorem issue_ok {w : OpWord} {i : Instr} (s : State) (h : decode w = .ok i) : issue w s = exec i s := by
  simp [issue, h]

theorem issue_error {w : OpWord} {e : DecodeError} (s : State) (h : decode w = .error e) :
    issue w s = takeIllegalOp w s := by
  simp [issue, h]

theorem core_run_zero (s : State) : Sys2Proof.core.run 0 s = .next s := rfl

/-- One step of a run of any machine of the host's. -/
theorem run_succ_of_next (M : Host.Core) (k : Nat) (s t : M.State) (h : M.step s = .next t) :
    M.run (k + 1) s = M.run k t := by
  simp [Host.Core.run, h]

theorem core_run_succ {s t : State} (k : Nat) (h : step s = .next t) :
    Sys2Proof.core.run (k + 1) s = Sys2Proof.core.run k t :=
  run_succ_of_next Sys2Proof.core k s t h

theorem issueAll_cons {i : Instr} {rest : List Instr} {s t : State} (h : exec i s = .next t) :
    issueAll (i :: rest) s = issueAll rest t := by
  simp [issueAll, h]

end Sys2Proof.Machine
end

