-- ==== Sys2Proof/Machine/Assembler.lean ====
section
/-! DEFINITION. The assembler notation of 30_encoding.md rule R69, on lines given as lists of characters. -/

namespace Sys2Proof.Machine

/-- The value of a hexadecimal digit (rule R69; either case, log entry 11). -/
def hexValue (c : Char) : Option Nat :=
  let i := ['0', '1', '2', '3', '4', '5', '6', '7', '8', '9', 'A', 'B', 'C', 'D', 'E', 'F',
            'a', 'b', 'c', 'd', 'e', 'f'].idxOf c
  if i < 16 then some i else if i < 22 then some (i - 6) else none

/-- "each a byte written as two hexadecimal digits without prefix". -/
def byteOperand : List Char → Option Byte
  | [a, b] =>
    match hexValue a, hexValue b with
    | some x, some y => some (BitVec.ofNat 8 (x * 16 + y))
    | _, _ => none
  | _ => none

/-- "or for `imm16` four hexadecimal digits". -/
def halfOperand : List Char → Option Half
  | [a, b, c, d] =>
    match byteOperand [a, b], byteOperand [c, d] with
    | some h, some l => some (imm16 h l)
    | _, _ => none
  | _ => none

/-- The words of a line, separated by one or more spaces. -/
def tokens (line : List Char) : List (List Char) :=
  let r := line.foldr (fun c (t : List Char × List (List Char)) =>
    if c = ' ' then ([], if t.1 = [] then t.2 else t.1 :: t.2) else (c :: t.1, t.2)) ([], [])
  if r.1 = [] then r.2 else r.1 :: r.2

/-- The operations without operands. -/
def plainOps : List Instr :=
  [.nop, .rst, .ibClr, .bufMov, .csInit, .csBuf, .csAppend, .csVerify, .frEsc, .frUnesc, .frEnc, .frDec, .evLoad,
   .plClr, .bsScan, .bsPack]

/-- The operations of one byte operand. -/
def byteOps (v : Byte) : List Instr := [.ibPush v, .csStep v, .bsSetoff v, .bsSetlen v]

/-- The operations of one `imm16` operand. -/
def halfOps (v : Half) : List Instr := [.evSetyear v, .plPush v]

/-- The operation of the list that has the mnemonic. -/
def named (m : List Char) (l : List Instr) : Option (List Instr) :=
  (l.find? (fun i => i.mnemonic.toList == m)).map (fun i => [i])

/-- The operations of one line's words: an operation, a pseudo-operation's expansion, or nothing for an empty line
(rule R69). `none` where the line is not in the notation. A `PL.LOAD` with no operand is `PL.CLR` alone, as the rule
says of `IB.LOAD` only (DESIGN CHOICE, log entry 11). -/
def assembleTokens : List (List Char) → Option (List Instr)
  | [] => some []
  | m :: args =>
    if m = "IB.LOAD".toList then (args.mapM byteOperand).map ibLoad
    else if m = "PL.LOAD".toList then (args.mapM halfOperand).map plLoad
    else match args with
      | [] => named m plainOps
      | [a] =>
        match byteOperand a, halfOperand a with
        | some v, _ => named m (byteOps v)
        | _, some v => named m (halfOps v)
        | none, none => none
      | [a, b] =>
        match byteOperand a, byteOperand b with
        | some f, some l => named m [.ibTrim f l]
        | _, _ => none
      | _ => none

/-- One line: what stands before a `;` (rule R69). -/
def assembleLine (line : List Char) : Option (List Instr) :=
  assembleTokens (tokens (line.takeWhile (fun c => c != ';')))

/-- A program, "a straight list that the host issues top to bottom" (rule R69). -/
def assemble (lines : List (List Char)) : Option (List Instr) :=
  (lines.mapM assembleLine).map List.flatten

end Sys2Proof.Machine
end

