-- ==== Sys2Proof/Tests/Slice0.lean ====
section
/-! SUPPORT. Tests of the model on values of the spec (95_test_vectors.md; the vector's name stands in the docstring),
and for each statement with hypotheses a witness that meets them. -/

namespace Sys2Proof.Tests

open Sys2Proof Sys2Proof.Machine

/-- The state after one operation. -/
def after (i : Instr) (s : State) : Option State :=
  match exec i s with
  | .next t => some t
  | .fault _ => none
  | .refused _ => none

/-- The state after one step. -/
def stepped (s : State) : Option State :=
  match step s with
  | .next t => some t
  | .fault _ => none
  | .refused _ => none

/-- The state after a list of operations. -/
def afterAll (l : List Instr) (s : State) : Option State :=
  match issueAll l s with
  | .next t => some t
  | .fault _ => none
  | .refused _ => none

/-- The reset state with the bytes in `IB`. -/
def withIb (S : List Byte) : State := State.reset.setIb S

/-- The reset state with the word at the port. -/
def atPort (w : OpWord) : State := State.reset.presentWord w

/-- The fault registers. -/
def faultOf (s : State) : Byte × Byte × Half := (s.flt, s.fop, s.finfo)

/-- A block halted by FramingError, as in program P6. -/
def halted : State := (withIb [0x10, 0x42, 0x75, 0x73, 0x79, 0x21, 0x0D, 0x0A]).setFault 1 0x23 2

/-- The record of vector EV-S1. -/
def recordS1 : List Byte := [0x7F, 0x98, 0x83, 0x13, 0x5D, 0xA6, 0x0A, 0x02, 0x06, 0x68, 0xDE, 0xFF, 0xFF, 0xFF]

/-- The state of vector EV-S1 after `EV.LOAD`. -/
def loadedS1 : State := (State.reset.setEr (EventRecord.ofBytes recordS1) 14).setCy 2017

/-! ### Decoding: words written out from the tables of 30_encoding.md rules R61 to R66 -/

theorem test_decode_control :
    (decodeBytes [0b00000000]).toOption = some .nop ∧ (decodeBytes [0b00000001]).toOption = some .rst ∧
    (decodeBytes [0b00000010]).toOption = some .ibClr ∧
    (decodeBytes [0b00000011, 0b00011100]).toOption = some (.ibPush 0x1C) ∧
    (decodeBytes [0b00000100]).toOption = some .bufMov ∧
    (decodeBytes [0b00000101, 0b00000001, 0b00000010]).toOption = some (.ibTrim 1 2) := by decide

theorem test_decode_checksum :
    (decodeBytes [0b00010000]).toOption = some .csInit ∧
    (decodeBytes [0b00010001, 0b00001001]).toOption = some (.csStep 0x09) ∧
    (decodeBytes [0b00010010]).toOption = some .csBuf ∧ (decodeBytes [0b00010011]).toOption = some .csAppend ∧
    (decodeBytes [0b00010100]).toOption = some .csVerify := by decide

theorem test_decode_framer :
    (decodeBytes [0b00100000]).toOption = some .frEsc ∧ (decodeBytes [0b00100001]).toOption = some .frUnesc ∧
    (decodeBytes [0b00100010]).toOption = some .frEnc ∧ (decodeBytes [0b00100011]).toOption = some .frDec := by
  decide

theorem test_decode_event :
    (decodeBytes [0b00110000]).toOption = some .evLoad ∧
    (decodeBytes [0b00110001, 0b00000111, 0b11100001]).toOption = some (.evSetyear 2017) := by decide

theorem test_decode_bitset :
    (decodeBytes [0b01000000, 0b00000000]).toOption = some (.bsSetoff 0) ∧
    (decodeBytes [0b01000001, 0b00000010]).toOption = some (.bsSetlen 2) ∧
    (decodeBytes [0b01000010]).toOption = some .plClr ∧
    (decodeBytes [0b01000011, 0b00000000, 0b00001110]).toOption = some (.plPush 14) ∧
    (decodeBytes [0b01000100]).toOption = some .bsScan ∧ (decodeBytes [0b01000101]).toOption = some .bsPack := by
  decide

/-- Illegal words IL-D1 to IL-D7, and sequences that are no word. -/
theorem test_decode_rejects_by_name :
    decode (.one 0x07) = .error (.unknownOpcode 0x07) ∧ decode (.three 0xFF 1 2) = .error (.unknownOpcode 0xFF) ∧
    decode (.two 0x10 0) = .error (.wrongLength 0x10 2) ∧ decode (.one 0x03) = .error (.wrongLength 0x03 1) ∧
    decode (.two 0x05 1) = .error (.wrongLength 0x05 2) ∧ decode (.two 0x31 7) = .error (.wrongLength 0x31 2) ∧
    decode (.two 0x01 0) = .error (.wrongLength 0x01 2) ∧ decodeBytes [] = .error (.notAWord 0) ∧
    decodeBytes [0, 0, 0, 0] = .error (.notAWord 4) := ⟨rfl, rfl, rfl, rfl, rfl, rfl, rfl, rfl, rfl⟩

/-- The numbering of spec/opcode_table.json: opcode highest. -/
theorem test_decodeTableWord :
    decodeTableWord 8 0x23 = some .frDec ∧ decodeTableWord 16 0x031C = some (.ibPush 0x1C) ∧
    decodeTableWord 24 0x050102 = some (.ibTrim 1 2) ∧ decodeTableWord 8 0x07 = none ∧
    decodeTableWord 32 0 = none := by decide

/-- Program P2's words back to back, and an illegal byte between two words (30_encoding.md rule R68). -/
theorem test_splitWords :
    splitWords [0x02, 0x03, 0x1C, 0x22, 0x04, 0x23, 0x04, 0x14, 0x05, 0x00, 0x02] =
      [.one 0x02, .two 0x03 0x1C, .one 0x22, .one 0x04, .one 0x23, .one 0x04, .one 0x14, .three 0x05 0 2] ∧
    splitWords [0x11, 0x09, 0x07, 0x01] = [.two 0x11 0x09, .one 0x07, .one 0x01] := by decide

/-! ### WellFormed: what each check refuses -/

theorem test_legal_refuses_an_unknown_opcode : (OpWord.one 0x07).legal = false ∧ (OpWord.one 0x46).legal = false := by
  decide

theorem test_legal_refuses_a_wrong_length :
    (OpWord.two 0x10 0).legal = false ∧ (OpWord.one 0x03).legal = false ∧ (OpWord.two 0x05 1).legal = false ∧
    (OpWord.three 0x11 0 0).legal = false := by decide

theorem test_legal_accepts : (OpWord.one 0x10).legal = true ∧ (OpWord.two 0x11 0xFF).legal = true ∧
    (OpWord.three 0x43 0 0x80).legal = true := by decide

theorem test_params_refused_outside_the_constraint :
    (Config.Params.mk 99).wf = false ∧ (Config.Params.mk 8161).wf = false ∧ (Config.Params.mk 100).wf = true ∧
    (Config.Params.mk 8160).wf = true ∧ Config.Params.default.wf = true := by decide

/-! ### Control and buffers -/

/-- CB-D2. -/
theorem test_rst : after .rst ((((withIb [0x09]).setAcc 0xD7EB).setBoff 0).setPl [3]) = some State.reset := by decide

/-- CB-D3. -/
theorem test_ibClr : (after .ibClr (withIb [0x09, 0xD7])).map State.ib = some [] := by decide

/-- CB-D5. -/
theorem test_ibPush : (after (.ibPush 0xFE) (withIb [0x1C])).map State.ib = some [0x1C, 0xFE] := by decide

/-- CB-D6, for any 256 bytes. -/
theorem test_ibPush_full (S : List Byte) (h : S.length = 256) :
    exec (.ibPush 0) (withIb S) = .next ((withIb S).setFault 4 0x03 257) :=
  (exec_ibPush _ _).trans (attempt_error (e := ⟨.bufferOverflow, 257⟩) rfl
    ((if_pos h).trans (by rw [show (withIb S).ib = S from rfl, h])))

/-- CB-D7. -/
theorem test_bufMov : (after .bufMov ((withIb [0x09]).setOb [0xFE, 0xFE])).map State.ib = some [0xFE, 0xFE] := by
  decide

/-- CB-D9, CB-D11. -/
theorem test_ibTrim : (after (.ibTrim 1 2) (withIb [1, 2, 3, 4, 5])).map State.ib = some [2, 3] ∧
    (after (.ibTrim 0 2) (withIb [1, 2, 3])).map State.ib = some [1] := by decide

/-- CB-D12, CB-D14. -/
theorem test_ibTrim_all : (after (.ibTrim 2 1) (withIb [1, 2, 3])).map State.ib = some [] ∧
    (after (.ibTrim 0xFF 0xFF) (withIb [1, 2, 3])).map State.ib = some [] := by decide

/-! ### Checksum -/

/-- CS-S1 and CS-S2, the document's own values. -/
theorem test_csStep : (after (.csStep 0x09) State.reset).map State.acc = some 0xD7EB ∧
    (after (.csStep 0x1C) State.reset).map State.acc = some 0xD7FE := by decide

/-- CS-D1, CS-D3, CS-D4, CS-D5, CS-D7, CS-D8. -/
theorem test_csStep_corners : csStep 0x8000 0x00 = 0x00FD ∧ csStep 0x0000 0x00 = 0x00FE ∧
    csStep 0x0000 0xFF = 0x01FD ∧ csStep 0x7FFF 0xFF = 0x0100 ∧ csStep 0x8001 0x01 = 0x00FC ∧
    csStep 0x1400 0x01 = 0xD8D7 := by decide

/-- CS-D30. -/
theorem test_csInit : (after .csInit (State.reset.setAcc 0xD7EB)).map State.acc = some 0x147A := by decide

/-- CS-D17, whatever `acc` held. -/
theorem test_csBuf :
    (after .csBuf ((withIb [0x8C, 0xFF, 0xFF, 0xFF]).setAcc 0x1234)).map State.acc = some 0x4043 := by decide

/-- CS-D31. -/
theorem test_csAppend :
    (after .csAppend ((withIb [0x09]).setAcc 0xD7EB)).map State.ib = some [0x09, 0xD7, 0xEB] := by decide

/-- CS-D34, for any 255 bytes. -/
theorem test_csAppend_full (S : List Byte) (h : S.length = 255) :
    exec .csAppend (withIb S) = .next ((withIb S).setFault 4 0x13 257) :=
  (exec_csAppend _).trans (attempt_error (e := ⟨.bufferOverflow, 257⟩) rfl
    ((if_pos (by rw [show (withIb S).ib = S from rfl, h, show (withIb S).bufSize = 256 from rfl]; decide)).trans (by rw [show (withIb S).ib = S from rfl, h])))

/-- CS-D35, CS-D37. -/
theorem test_csVerify : (after .csVerify ((withIb [0x09, 0xD7, 0xEB]).setAcc 0x1234)).map State.acc = some 0xD7EB ∧
    (after .csVerify ((withIb [0x14, 0x7A]).setAcc 0x1234)).map State.acc = some 0x147A := by decide

/-- CS-D36, CS-D39, CS-D40. -/
theorem test_csVerify_faults :
    after .csVerify (withIb [0x09, 0xD7, 0xEA]) = some ((withIb [0x09, 0xD7, 0xEA]).setFault 2 0x14 0xD7EB) ∧
    (after .csVerify (withIb [0x14])).map faultOf = some (2, 0x14, 0x147A) ∧
    (after .csVerify (withIb [])).map faultOf = some (2, 0x14, 0x147A) := by decide

/-! ### Framer -/

/-- FR-D1, FR-D5. -/
theorem test_frEsc : (after .frEsc (withIb [0x1C, 0xD7, 0xFE])).map State.ob = some [0x1C, 0xD7, 0xFE, 0xF0] ∧
    (after .frEsc (withIb [0xFE, 0x0D])).map State.ob = some [0xFE, 0xF0, 0x0D] := by decide

/-- FR-D8, FR-D10. -/
theorem test_frUnesc : (after .frUnesc (withIb [0xFE, 0xF0, 0xF0])).map State.ob = some [0xFE, 0xF0] ∧
    (after .frUnesc (withIb [0xF0, 0xFE, 0xF0, 0x0D])).map State.ob = some [0xF0, 0xFE, 0x0D] := by decide

/-- FR-D11, FR-D13. -/
theorem test_frUnesc_faults : (after .frUnesc (withIb [0x41, 0xFE])).map faultOf = some (3, 0x21, 1) ∧
    (after .frUnesc (withIb [0xFE, 0xFE, 0xF0])).map faultOf = some (3, 0x21, 0) := by decide

/-- FR-S2, the document's own frame, with the checksum in `acc`. -/
theorem test_frEnc : (after .frEnc (withIb [0x1C])).map (fun t => (t.ob, t.acc)) =
    some ([0xFE, 0xFE, 0x1C, 0xD7, 0xFE, 0xF0, 0xFE, 0x0D], 0xD7FE) := by decide

/-- CS-D10, CS-D14. -/
theorem test_frEnc_corners :
    (after .frEnc (withIb [])).map State.ob = some [0xFE, 0xFE, 0x14, 0x7A, 0xFE, 0x0D] ∧
    (after .frEnc (withIb [0xFE])).map State.ob = some [0xFE, 0xFE, 0xFE, 0xF0, 0xD8, 0xE0, 0xFE, 0x0D] := by decide

/-- FR-D32, FR-D36. -/
theorem test_frDec : (after .frDec (withIb [0xFE, 0xFE, 0xFE, 0x0D])).map State.ob = some [] ∧
    (after .frDec (withIb [0xFE, 0xFE, 0x41, 0xFE, 0xF0, 0x0D, 0x42, 0xFE, 0x0D])).map State.ob =
      some [0x41, 0xFE, 0x0D, 0x42] := by decide

/-- FR-D39, FR-D41, FR-D44, FR-D46. -/
theorem test_frDec_faults : (after .frDec (withIb [0xFE, 0xFE, 0x0D])).map faultOf = some (1, 0x23, 1) ∧
    (after .frDec (withIb [0x00, 0xFE, 0x09, 0xD7, 0xEB, 0xFE, 0x0A])).map faultOf = some (1, 0x23, 2) ∧
    (after .frDec (withIb [0xFE, 0xFE, 0x09, 0xD7, 0xEB, 0xFE, 0x0D, 0x00])).map faultOf = some (1, 0x23, 3) ∧
    (after .frDec (withIb [0xFE, 0xFE, 0x01, 0xFE, 0x0D, 0x02, 0xFE, 0x0D])).map faultOf = some (3, 0x23, 3) := by
  decide

/-! ### Event record -/

/-- EV-S1, EV-D4. -/
theorem test_evLoad : (after .evLoad (withIb recordS1)).map (fun t => (t.er.b0, t.er.b13, t.ercnt)) =
      some (0x7F, 0xFF, 14) ∧
    (after .evLoad ((withIb [0x7F, 0x98, 0x83, 0x13, 0x5D]).setEr loadedS1.er 14)).map
      (fun t => (t.er.b4, t.er.b5, t.er.b13, t.ercnt)) = some (0x5D, 0, 0, 5) := by decide

/-- EV-D8. -/
theorem test_evSetyear : (after (.evSetyear 0x07E4) loadedS1).map (fun t => (t.cy, t.absYear)) = some (2020, 2021) ∧
    (after (.evSetyear 0xFFFF) loadedS1).map State.absYear = some 65533 := by decide

/-- EV-S1, the document's own views. -/
theorem test_views : loadedS1.monitoringS1 = 3 ∧ loadedS1.monitoringS2 = 3 ∧ loadedS1.present = true ∧
    loadedS1.notEmpty = true ∧ loadedS1.year = 1 ∧ loadedS1.day = 24 ∧ loadedS1.eventClass = 4 ∧
    loadedS1.month = 8 ∧ loadedS1.code = 422 ∧ loadedS1.restore = true ∧ loadedS1.partition = 11 ∧
    loadedS1.sourceNumber = 10 ∧ loadedS1.objectNumber = 0 ∧ loadedS1.userControlNumber = 2 ∧
    loadedS1.minutes = 787 ∧ loadedS1.absYear = 2017 ∧ loadedS1.eventIndexN = 420062 ∧
    loadedS1.callingEventIndexN = 16777215 := by decide

theorem test_texts : loadedS1.time = ['1', '3', ':', '0', '7'] ∧
    loadedS1.eventIndexText = ['0', '6', '6', '8', 'D', 'E'] ∧
    loadedS1.callingEventIndexText = ['F', 'F', 'F', 'F', 'F', 'F'] := by decide

/-! ### Bitset -/

theorem test_bsSetoff : (after (.bsSetoff 0) State.reset).map State.boff = some 0 := by decide

theorem test_bsSetlen : (after (.bsSetlen 2) State.reset).map State.blen = some 2 := by decide

theorem test_plClr : (after .plClr (State.reset.setPl [3, 14])).map State.pl = some [] := by decide

/-- BS-D4. -/
theorem test_plPush : (after (.plPush 14) (State.reset.setPl [3])).map State.pl = some [3, 14] := by decide

/-- BS-D8, BS-D9. -/
theorem test_bsScan : (after .bsScan ((withIb [0x81, 0x01]).setBoff 10)).map State.pl = some [10, 17, 18] ∧
    (after .bsScan ((withIb [0x80]).setBoff 255)).map State.pl = some [262] := by decide

/-- BS-S1. -/
theorem test_bsScan_document :
    (after .bsScan (withIb [0x04, 0x20, 0, 0, 0, 0, 0, 0, 0, 0, 0, 0, 0, 0, 0, 0x80])).map State.pl =
      some [3, 14, 128] := by decide

/-- BS-D16, BS-D19. -/
theorem test_bsPack : (after .bsPack (State.reset.setPl [128, 3, 14, 3])).map State.ob =
      some [0x04, 0x20, 0, 0, 0, 0, 0, 0, 0, 0, 0, 0, 0, 0, 0, 0x80] ∧
    (after .bsPack (((State.reset.setPl [255, 262]).setBoff 255).setBlen 1)).map State.ob = some [0x81] := by decide

/-- BS-D21, BS-D23, BS-D24, BS-D25. -/
theorem test_bsPack_faults :
    after .bsPack ((State.reset.setPl [129]).setOb [0xAA]) =
      some (((State.reset.setPl [129]).setOb [0xAA]).setFault 5 0x45 129) ∧
    (after .bsPack (State.reset.setPl [5, 200, 0])).map faultOf = some (5, 0x45, 200) ∧
    (after .bsPack ((State.reset.setPl [1]).setBlen 0)).map faultOf = some (5, 0x45, 1) ∧
    (after .bsPack (((State.reset.setPl [263]).setBoff 255).setBlen 1)).map faultOf = some (5, 0x45, 263) := by decide

/-! ### The step -/

/-- IL-D1, IL-D2, IL-D7: an illegal word at the port. -/
theorem test_step_illegal : (stepped (atPort (.one 0x07))) = some (State.reset.setFault 6 0x07 1) ∧
    (stepped (atPort (.three 0xFF 1 2))).map faultOf = some (6, 0xFF, 3) ∧
    (stepped (atPort (.two 0x01 0))).map faultOf = some (6, 0x01, 2) := by decide

/-- Section 2.6: the halted block ignores legal and illegal words. -/
theorem test_step_halted : stepped (halted.presentWord (.two 0x11 0x09)) = some halted ∧
    stepped (halted.presentWord (.one 0x07)) = some halted ∧
    stepped (halted.presentWord (.two 0x01 0x00)) = some halted := by decide

/-- Program P6: `RST`, and the reset input, leave the halted state. -/
theorem test_step_reset : stepped (halted.presentWord (.one 0x01)) = some State.reset ∧
    stepped (halted.setInputs [.resetLine]) = some State.reset := by decide

/-- The placed word is the one the next step runs. -/
theorem test_withFetchWord : stepped (State.reset.withFetchWord 16 0x1109) = after (.csStep 0x09) State.reset ∧
    stepped (State.reset.withFetchWord 24 0x3107E1) = after (.evSetyear 2017) State.reset ∧
    stepped (State.reset.withFetchWord 8 0x22) = after .frEnc State.reset := by decide

/-! ### The notation (30_encoding.md rule R69) -/

theorem test_assemble :
    assembleLine "IB.PUSH 1C ; one byte".toList = some [.ibPush 0x1C] ∧
    assembleLine "EV.SETYEAR 07E1".toList = some [.evSetyear 2017] ∧
    assembleLine "IB.TRIM 01 02".toList = some [.ibTrim 1 2] ∧
    assembleLine "IB.LOAD 09 D7".toList = some [.ibClr, .ibPush 0x09, .ibPush 0xD7] ∧
    assembleLine "IB.LOAD".toList = some [.ibClr] ∧
    assembleLine "PL.LOAD 0080 0003".toList = some [.plClr, .plPush 128, .plPush 3] ∧
    assembleLine "IB.PUSH 1".toList = none ∧ assembleLine "JUMP 00".toList = none := by decide

/-! ### The host's contract -/

/-- UC-S1, UC-S2, and a code too long. -/
theorem test_userCode : HostSide.formatUserCode 1234 none =
      some [0x12, 0x34, 0xFF, 0xFF, 0xFF, 0xFF, 0xFF, 0xFF] ∧
    HostSide.formatUserCode 1234 (some 97) = some [0x97, 0x12, 0x34, 0xFF, 0xFF, 0xFF, 0xFF, 0xFF] ∧
    HostSide.formatUserCode 123456789012345678 none = none ∧ HostSide.formatUserCode 123 none = none := by decide

/-- CS-D17 to CS-D19's frames of the commands the document names. -/
theorem test_commands :
    encodeFrame HostSide.latestEventCommand = [0xFE, 0xFE, 0x8C, 0xFF, 0xFF, 0xFF, 0x40, 0x43, 0xFE, 0x0D] ∧
    encodeFrame (HostSide.nameCommand 1 1) = [0xFE, 0xFE, 0xEE, 0x01, 0x01, 0x63, 0x08, 0xFE, 0x0D] ∧
    encodeFrame HostSide.versionCommand = [0xFE, 0xFE, 0x7E, 0xD8, 0x60, 0xFE, 0x0D] := by decide

/-- CS-D20 and CS-D22 as responses: an accepted status, a device error. -/
theorem test_validate :
    HostSide.validate [0x7E] [0xFE, 0xFE, 0xEF, 0x00, 0x4E, 0xAA, 0xFE, 0x0D] = .ok [0x00] ∧
    HostSide.validate [0x7E] [0xFE, 0xFE, 0xEF, 0x01, 0x4E, 0xAB, 0xFE, 0x0D] = .error (.deviceError 0x01) ∧
    HostSide.validate [0x09] [0xFE, 0xFE, 0x1C, 0xD7, 0xFE, 0xF0, 0xFE, 0x0D] = .error .protocolMismatch :=
  ⟨rfl, rfl, rfl⟩

/-! ### Witnesses: for each statement with hypotheses, values that meet them, clause by clause -/

/-- `IB` in a block of capacity `n`: the overflow clauses hold for every capacity, so a small one keeps the witness
small. -/
def sized (n : Nat) (S : List Byte) : State := { withIb S with params := { bufSize := n } }

theorem witness_StoredWordsAreReadBack : formatOf 0x06 = none ∧ formatOf 0x46 = none ∧ formatOf 0xFF = none := by
  decide

theorem witness_DecoderFollowsTheOpcodeTable : decode (.three 0x43 0xFF 0xFF) = .ok (.plPush 0xFFFF) := rfl

theorem witness_StepRunsTheDecodedOperation :
    (atPort (.two 0x11 0x09)).inputs = [.word (.two 0x11 0x09)] ∧ decode (.two 0x11 0x09) = .ok (.csStep 0x09) :=
  ⟨rfl, rfl⟩

theorem witness_IllegalWordRaisesIllegalOp : (atPort (.two 0x10 0)).flt = 0 ∧
    (atPort (.two 0x10 0)).inputs = [.word (.two 0x10 0)] ∧ (OpWord.two 0x10 0).legal = false := by decide

theorem witness_ResetInputActsAsRst : (halted.setInputs [.resetLine]).inputs = [.resetLine] := rfl

theorem witness_StepWithoutInputChangesNothing : State.reset.inputs = [] := rfl

theorem witness_HaltedBlockIgnoresEveryWordButRst : halted.flt ≠ 0 ∧
    (halted.presentWord (.two 0x01 0)).inputs = [.word (.two 0x01 0)] ∧ OpWord.two 0x01 0 ≠ .one 0x01 ∧
    (halted.presentWord (.one 0x01)).inputs = [.word (.one 0x01)] := by decide

theorem witness_HaltedRunKeepsTheFirstFault : halted.flt ≠ 0 ∧
    ∀ x ∈ (halted.setInputs [.word (.one 0x22), .word (.one 0x07), .resetLine]).inputs.take 2,
      x.resets = false := by decide

theorem witness_OnlyResetLeavesTheHaltedState : (halted.presentWord (.one 0x01)).flt ≠ 0 ∧
    step (halted.presentWord (.one 0x01)) = .next State.reset ∧ State.reset.flt = 0 := ⟨by decide, rfl, rfl⟩

theorem witness_StepKeepsStateWellFormed : (atPort (.one 0x23)).Wf ∧
    step (atPort (.one 0x23)) = .next (State.reset.setFault 1 0x23 1) := ⟨by decide, rfl⟩

theorem witness_StepKeepsHeldFaultExplained :
    (halted.presentWord (.one 0x22)).Wf ∧ (halted.presentWord (.one 0x22)).FaultExplained ∧
    step (halted.presentWord (.one 0x22)) = .next halted := ⟨by decide, by decide, rfl⟩

theorem witness_ResetValuesAreTheTable : exec .rst halted = .next State.reset := rfl

/-- `CS.STEP` is not `RST`, in a halted block; and the reset input at a port. -/
theorem witness_RstRestoresEveryResetValue : halted.flt ≠ 0 ∧ Instr.csStep 0x09 ≠ .rst ∧
    (halted.setInputs [.resetLine]).inputs = [.resetLine] := by decide

theorem witness_FaultEntryWritesOnlyTheFaultRegisters : State.reset.flt = 0 ∧
    exec .frDec State.reset = .next (State.reset.setFault 1 0x23 1) ∧ (State.reset.setFault 1 0x23 1).flt ≠ 0 :=
  ⟨rfl, rfl, by decide⟩

/-- Every code of the table but 4 from a small state; `test_ibPush_full` raises 4. -/
theorem witness_EachFaultCodeHasItsRaisers :
    (stepped ((withIb []).presentWord (.one 0x23))).map State.flt = some 1 ∧
    (stepped ((withIb []).presentWord (.one 0x14))).map State.flt = some 2 ∧
    (stepped ((withIb [0xFE]).presentWord (.one 0x21))).map State.flt = some 3 ∧
    (stepped ((withIb [0xFE, 0xFE, 0xFE, 0xFE, 0x0D]).presentWord (.one 0x23))).map State.flt = some 3 ∧
    (stepped ((State.reset.setPl [0]).presentWord (.one 0x45))).map State.flt = some 5 ∧
    (stepped (atPort (.one 0x06))).map State.flt = some 6 := by decide

theorem witness_NeverFaultingOperationsStayReady : State.reset.flt = 0 ∧
    Instr.evLoad ∈ [Instr.nop, .rst, .ibClr, .bufMov, .csInit, .csBuf, .evLoad, .plClr, .bsScan] ∧
    (∃ f l, Instr.ibTrim 0xFF 0xFF = .ibTrim f l) ∧ (∃ v, Instr.csStep 0 = .csStep v) ∧
    (∃ y, Instr.evSetyear 0xFFFF = .evSetyear y) ∧ (∃ v, Instr.bsSetoff 0 = .bsSetoff v) ∧
    (∃ v, Instr.bsSetlen 0xFF = .bsSetlen v) :=
  ⟨rfl, by decide, ⟨_, _, rfl⟩, ⟨_, rfl⟩, ⟨_, rfl⟩, ⟨_, rfl⟩, ⟨_, rfl⟩⟩

theorem witness_OperationsWriteOnlyTheirColumns : Piece.acc ∉ writesOf .frDec ∧
    exec .frDec (withIb [0xFE, 0xFE, 0xFE, 0x0D]) = .next (withIb [0xFE, 0xFE, 0xFE, 0x0D]) := ⟨by decide, rfl⟩

theorem witness_OperationsReadOnlyTheirColumns : Piece.acc ∉ readsOf .csBuf ∧
    exec .csBuf ((withIb [0x09]).setAcc 0) = .next ((withIb [0x09]).setAcc 0xD7EB) := ⟨by decide, rfl⟩

/-- Statements whose one hypothesis is that the block is not halted: `IbClrEmptiesIb`, `BufMovCopiesObToIb`,
`IbTrimDropsBothEnds`, `CsInitLoadsTheInitialValue`, `CsStepRotatesComplementsAndAdds`, `CsBufSumsIb`,
`CsInitThenStepsIsTheChecksum`, `EvLoadCopiesAndZeroFills`, `BsSetoffLoadsTheOffset`, `BsSetlenLoadsTheLength`,
`PlClrEmptiesTheList`. -/
theorem witness_ready : State.reset.flt = 0 ∧ (withIb [0x09, 0xD7]).flt = 0 ∧ loadedS1.flt = 0 := by decide

/-- The bound variables of `CsStepRotatesComplementsAndAdds` at the document's first vector. -/
theorem witness_CsStepRotatesComplementsAndAdds :
    (0x28F4 : Nat) = State.reset.acc.toNat * 2 % 65536 + State.reset.acc.toNat / 32768 ∧
    (0xD70B : Nat) = 65535 - 0x28F4 := by decide

theorem witness_IbTrimDropsBothEnds : (withIb [1, 2, 3, 4, 5]).flt = 0 ∧ 1 < [(2 : Byte), 3].length := by decide

/-- The last free byte, and the full buffer. -/
theorem witness_IbPushAppendsOrOverflows : (sized 3 [1, 2]).flt = 0 ∧
    (sized 3 [1, 2]).ib.length ≠ (sized 3 [1, 2]).bufSize ∧
    (sized 3 [1, 2, 3]).ib.length = (sized 3 [1, 2, 3]).bufSize := by decide

/-- The last two free bytes, and one byte too few. -/
theorem witness_CsAppendAppendsBothBytesOrOverflows :
    State.reset.acc.toNat = (0x14 : Byte).toNat * 256 + (0x7A : Byte).toNat ∧ (sized 3 [1]).flt = 0 ∧
    (sized 3 [1]).ib.length + 2 ≤ (sized 3 [1]).bufSize ∧
    (sized 3 [1, 2]).ib.length + 2 > (sized 3 [1, 2]).bufSize := by decide

theorem witness_CsVerifyChecksTheTrailingChecksum : (withIb [0x14, 0x7A]).flt = 0 ∧
    (withIb [0x14, 0x7A]).ib = [] ++ [0x14, 0x7A] ∧
    (0x14 : Byte).toNat * 256 + (0x7A : Byte).toNat = (checksum []).toNat ∧
    (0x14 : Byte).toNat * 256 + (0x7B : Byte).toNat ≠ (checksum []).toNat ∧ (withIb [0x14]).ib.length < 2 := by
  decide

/-- A result that fills the buffer, and one a byte too long. -/
theorem witness_FrEscStuffsOrOverflows : (sized 3 [0xFE, 0]).flt = 0 ∧
    (stuffed (sized 3 [0xFE, 0]).ib).length ≤ (sized 3 [0xFE, 0]).bufSize ∧
    (stuffed (sized 3 [0xFE, 0xFE]).ib).length > (sized 3 [0xFE, 0xFE]).bufSize := by decide

theorem witness_FrUnescUnstuffsOrFaults : (withIb [0xFE, 0xF0, 0xF0]).ib = stuffed [0xFE, 0xF0] ∧
    (withIb [0x41, 0xFE]).ib = stuffed [0x41] ++ 0xFE :: [] ∧ ([] : List Byte).head? ≠ some 0xF0 ∧
    (withIb [0xFE, 0x0D]).ib = stuffed [] ++ 0xFE :: [0x0D] ∧ [(0x0D : Byte)].head? ≠ some 0xF0 := by decide

theorem witness_FrEncFramesOrOverflows : (withIb [0x1C]).flt = 0 ∧
    (framed (sized 7 [0x09]).ib).length ≤ (sized 7 [0x09]).bufSize ∧
    (framed (sized 7 [0x1C]).ib).length > (sized 7 [0x1C]).bufSize := by decide

theorem witness_FrDecUnframesOrFaults : (withIb []).flt = 0 ∧
    (withIb [0xFE, 0xFE, 0xFE, 0xF0, 0xFE, 0x0D]).ib = [0xFE, 0xFE] ++ stuffed [0xFE] ++ [0xFE, 0x0D] ∧
    (withIb [0xFE, 0xFE, 0x0D]).ib.length < 4 ∧
    ([0xFE, 0x0D, 0xFE, 0xFE] : List Byte).take 2 ≠ [0xFE, 0xFE] ∧
    ([0xFE, 0xFE, 0x09, 0xFE] : List Byte).take 2 = [0xFE, 0xFE] ∧
    ([0xFE, 0xFE, 0x09, 0xFE] : List Byte).drop 2 ≠ [0xFE, 0x0D] ∧
    (withIb [0xFE, 0xFE, 0xFE, 0xFE, 0x0D]).ib = [0xFE, 0xFE] ++ (stuffed [] ++ 0xFE :: []) ++ [0xFE, 0x0D] := by
  decide

theorem witness_FramedCommandComesBackVerified : (withIb [0x1C]).flt = 0 ∧
    (encodeFrame (withIb [0x1C]).ib).length ≤ (withIb [0x1C]).bufSize := by decide

/-- Both boundaries of the zero fill: byte 4 loaded, byte 5 filled. -/
theorem witness_EvLoadCopiesAndZeroFills : (4 : Nat) < (withIb [0x7F, 0x98, 0x83, 0x13, 0x5D]).ib.length ∧
    (withIb [0x7F, 0x98, 0x83, 0x13, 0x5D]).ib.length ≤ 5 := by decide

theorem witness_EvSetyearLoadsTheYear : (2017 : Half).toNat = (0x07 : Byte).toNat * 256 + (0xE1 : Byte).toNat ∧
    State.reset.flt = 0 := by decide

theorem witness_RecordFieldsLieWhereTheLayoutSays :
    ∀ k < 14, (fun k => (loadedS1.er.byte k).toNat) k = (loadedS1.er.byte k).toNat := fun _ _ => rfl

theorem witness_ViewsBeforeTheFirstLoadReadZero : (State.reset.setCy 2017).er = State.reset.er := rfl

theorem witness_PlPushAppendsOrOverflows : (14 : Half).toNat = (0 : Byte).toNat * 256 + (0x0E : Byte).toNat ∧
    ((sized 1 []).setPl [1, 2, 3, 4, 5, 6, 7]).pl.length ≠ 8 * (sized 1 []).bufSize ∧
    ((sized 1 []).setPl [1, 2, 3, 4, 5, 6, 7, 8]).pl.length = 8 * (sized 1 []).bufSize := by decide

theorem witness_BsScanListsTheSetBits : (withIb [0x81, 0x01]).flt = 0 ∧ (withIb [0x81, 0x01]).params.wf = true ∧
    (withIb [0x81, 0x01]).ib.length ≤ (withIb [0x81, 0x01]).bufSize := by decide

/-- The least and the greatest position inside, the first one outside, and a length above the capacity. -/
theorem witness_BsPackSetsTheListedBitsOrFaults : State.reset.flt = 0 ∧
    State.reset.boff.toNat ≤ (1 : Half).toNat ∧
    (128 : Half).toNat < State.reset.boff.toNat + 8 * State.reset.blen.toNat ∧
    ¬ ((129 : Half).toNat < State.reset.boff.toNat + 8 * State.reset.blen.toNat) ∧
    State.reset.blen.toNat ≤ State.reset.bufSize ∧ ((sized 100 []).setBlen 101).blen.toNat > (sized 100 []).bufSize ∧
    (State.reset.setPl [1, 129, 0]).pl = [1] ++ 129 :: [0] := by decide

theorem witness_BitsetRoundTripsBothWays : 1 + 8 * 2 ≤ 65536 ∧ pack [16, 1, 9, 8, 1] 2 1 = .ok [0x81, 0x81] ∧
    1 + 8 * [(0x81 : Byte), 0x81].length ≤ 65536 := ⟨by decide, rfl, by decide⟩

theorem witness_PackMoveScanSortsTheList : (State.reset.setPl [8, 3]).params.wf = true ∧
    (after .bsPack (State.reset.setPl [8, 3])).map State.flt = some 0 := by decide

theorem witness_MismatchedEchoIsNeverAccepted : (0x1C : Byte) ≠ 0xEF ∧ (0x1C : Byte) ≠ 0x09 := by decide

end Sys2Proof.Tests
end

section
/-! Every step keeps a state well formed, and the state after reset is so. -/

namespace Sys2Proof.Machine

/-! ### What a frame can do, for a predicate of states -/

/-- What an effect computes: a state with `P`, or a fault with `E`. -/
inductive Yields (P : State → Prop) (E : FaultInfo → Prop) : Except FaultInfo State → Prop
  | ok {t : State} (h : P t) : Yields P E (.ok t)
  | error {e : FaultInfo} (h : E e) : Yields P E (.error e)

namespace Yields

variable {P : State → Prop} {E : FaultInfo → Prop}

theorem ite {c : Prop} [Decidable c] {x y : Except FaultInfo State} (hx : c → Yields P E x)
    (hy : ¬ c → Yields P E y) : Yields P E (if c then x else y) := by
  split
  · exact hx ‹_›
  · exact hy ‹_›

theorem map {α : Type} {k : α → State} {x : Except FaultInfo α} (herr : ∀ e, x = .error e → E e)
    (hok : ∀ a, x = .ok a → P (k a)) : Yields P E (x.map k) := by
  cases x with
  | ok a => exact .ok (hok a rfl)
  | error e => exact .error (herr e rfl)

end Yields

section Frames

variable {P : State → Prop} {o : Host.Outcome State Fault Refusal} {s t : State}

/-- What holds before `operate` and after its effect holds of the next state. -/
theorem operate_preserves {f : State → State} (ho : o = operate s f) (h : o = .next t) (hs : P s)
    (hf : P (f s)) : P t := by
  subst ho
  rcases operate_cases h with ⟨-, rfl⟩ | ⟨-, rfl⟩
  · exact hs
  · exact hf

/-- What holds before `attempt`, after its effect and after its fault entry holds of the next state. -/
theorem attempt_preserves {op : Byte} {f : State → Except FaultInfo State} (ho : o = attempt op s f)
    (h : o = .next t) (hs : P s) (hf : Yields P (fun e => P (raise op e s)) (f s)) : P t := by
  subst ho
  rcases attempt_cases h with ⟨-, rfl⟩ | ⟨-, hu⟩ | ⟨-, e, he, rfl⟩
  · exact hs
  · rw [hu] at hf
    cases hf
    assumption
  · rw [he] at hf
    cases hf
    assumption

end Frames

/-! ### The faults of the operations' helpers -/

/-- The opcode bytes of the operations that raise a fault: the column "raised by" of 60_exceptions.md rule R220. No
operation raises IllegalOp. -/
def FaultKind.raisers : FaultKind → List Byte
  | .framingError => [0x23]
  | .checksumError => [0x14]
  | .escapeError => [0x21, 0x23]
  | .bufferOverflow => [0x03, 0x13, 0x20, 0x22, 0x43, 0x45]
  | .rangeError => [0x45]
  | .illegalOp => []

theorem verifyPayload_error_kind {S : List Byte} {e : FaultInfo} (h : verifyPayload S = .error e) :
    e.kind = .checksumError := by
  rcases verifyPayload_cases S with ⟨-, h'⟩ | ⟨C, hi, lo, -, -, h'⟩ | ⟨C, hi, lo, -, -, h'⟩ <;>
    rw [h'] at h <;> cases h <;> rfl

theorem decodeFrame_error_kind {R : List Byte} {e : FaultInfo} (h : decodeFrame R = .error e) :
    e.kind = .framingError ∨ e.kind = .escapeError := by
  rcases decodeFrame_cases R with ⟨-, h'⟩ | ⟨-, -, h'⟩ | ⟨-, -, -, h'⟩ | ⟨B, -, h'⟩ <;> rw [h'] at h
  · cases h; exact .inl rfl
  · cases h; exact .inl rfl
  · cases h; exact .inl rfl
  · obtain ⟨i, -, rfl⟩ := except_mapError_eq_error.mp h
    exact .inr rfl

theorem pack_error_kind {P : List Half} {n off : Nat} {e : FaultInfo} (h : pack P n off = .error e) :
    e.kind = .rangeError := by
  rcases pack_cases P n off with ⟨B, h', -⟩ | ⟨A, p, R, -, -, -, h'⟩ <;> rw [h'] at h <;> cases h
  rfl

theorem pack_ok_length {P : List Half} {n off : Nat} {B : List Byte} (h : pack P n off = .ok B) :
    B.length = n := by
  rcases pack_cases P n off with ⟨B', h', -, hlen, -⟩ | ⟨A, p, R, -, -, -, h'⟩ <;> rw [h'] at h <;> cases h
  exact hlen

/-! ### Each write keeps a state well formed -/

namespace State.Wf

variable {s : State}

theorem setAcc (h : s.Wf) (v : Half) : (s.setAcc v).Wf := h

theorem setCy (h : s.Wf) (v : Half) : (s.setCy v).Wf := h

theorem setBoff (h : s.Wf) (v : Byte) : (s.setBoff v).Wf := h

theorem setBlen (h : s.Wf) (v : Byte) : (s.setBlen v).Wf := h

theorem setInputs (h : s.Wf) (l : List Input) : (s.setInputs l).Wf := h

theorem setIb (h : s.Wf) {S : List Byte} (hS : S.length ≤ s.bufSize) : (s.setIb S).Wf := by
  obtain ⟨hp, ⟨-, hob, hpl⟩, hr, hf⟩ := h
  exact ⟨hp, ⟨hS, hob, hpl⟩, hr, hf⟩

theorem setOb (h : s.Wf) {S : List Byte} (hS : S.length ≤ s.bufSize) : (s.setOb S).Wf := by
  obtain ⟨hp, ⟨hib, -, hpl⟩, hr, hf⟩ := h
  exact ⟨hp, ⟨hib, hS, hpl⟩, hr, hf⟩

theorem setPl (h : s.Wf) {P : List Half} (hP : P.length ≤ s.plSize) : (s.setPl P).Wf := by
  obtain ⟨hp, ⟨hib, hob, -⟩, hr, hf⟩ := h
  exact ⟨hp, ⟨hib, hob, hP⟩, hr, hf⟩

/-- A record loaded from bytes is zero from its count on (43_event_record.md rule R140). -/
theorem setEr_ofBytes (h : s.Wf) (S : List Byte) :
    (s.setEr (EventRecord.ofBytes S) (BitVec.ofNat 4 (min S.length 14))).Wf := by
  obtain ⟨hp, hc, -, hf⟩ := h
  have hn : (BitVec.ofNat 4 (min S.length 14)).toNat = min S.length 14 := by
    rw [BitVec.toNat_ofNat]
    omega
  refine ⟨hp, hc, ⟨?_, fun k hk hle => ?_⟩, hf⟩
  · rw [setEr_ercnt, hn]
    omega
  · rw [setEr_ercnt, hn] at hle
    rw [setEr_er, EventRecord.byte_ofBytes S k hk, byteAt_eq_getElem?, List.getElem?_eq_none (by omega)]
    rfl

/-- Fault entry by an operation that the table lists for the fault (60_exceptions.md rule R220). -/
theorem raise (h : s.Wf) {op : Byte} {kind : FaultKind} {info : Nat} (hop : op ∈ kind.raisers) :
    (raise op { kind := kind, info := info } s).Wf := by
  obtain ⟨hp, hc, hr, -⟩ := h
  refine ⟨hp, hc, hr, ?_⟩
  rw [raise_eq]
  cases kind <;> simp_all [FaultGroupLegal, FaultKind.code, FaultKind.raisers]

/-- Fault entry by an illegal word, which has one to three bytes (60_exceptions.md rule R227). -/
theorem raise_illegalOp (h : s.Wf) (w : OpWord) :
    (Machine.raise w.opcode { kind := .illegalOp, info := w.length } s).Wf := by
  obtain ⟨hp, hc, hr, -⟩ := h
  refine ⟨hp, hc, hr, ?_⟩
  cases w <;> simp [raise_eq, FaultGroupLegal, FaultKind.code, OpWord.length]

end State.Wf

/-- The reset values are well formed for all legal parameters (10_state.md rule R37). -/
theorem State.resetWith_wf {params : Config.Params} (h : params.wf = true) (inputs : List Input) :
    (State.resetWith params inputs).Wf :=
  ⟨h, ⟨Nat.zero_le _, Nat.zero_le _, Nat.zero_le _⟩,
    ⟨Nat.zero_le _, fun k hk _ => EventRecord.byte_ofBytes [] k hk⟩,
    by simp [State.FaultGroupLegal, State.resetWith]⟩

/-! ### Each operation and each step keeps a state well formed -/

/-- One case for each operation: where it writes a buffer, the new length is within the capacity; where it faults,
the table lists it for the fault. -/
theorem exec_preserves_wf {i : Instr} {s t : State} (hs : s.Wf) (h : exec i s = .next t) : t.Wf := by
  have ⟨hp, ⟨hib, hob, hpl⟩, _⟩ := hs
  cases i with
  | nop => exact operate_preserves (exec_nop s) h hs hs
  | rst => cases h; exact State.resetWith_wf hp _
  | ibClr => exact operate_preserves (exec_ibClr s) h hs (hs.setIb (Nat.zero_le _))
  | ibPush v =>
    refine attempt_preserves (exec_ibPush s v) h hs
      (.ite (fun _ => .error (hs.raise (by decide))) (fun hc => .ok (hs.setIb ?_)))
    rw [List.length_append, List.length_singleton]
    omega
  | bufMov => exact operate_preserves (exec_bufMov s) h hs (hs.setIb hob)
  | ibTrim f l =>
    refine operate_preserves (exec_ibTrim s f l) h hs (hs.setIb ?_)
    rw [trim_length]
    omega
  | csInit => exact operate_preserves (exec_csInit s) h hs (hs.setAcc _)
  | csStep v => exact operate_preserves (exec_csStep s v) h hs (hs.setAcc _)
  | csBuf => exact operate_preserves (exec_csBuf s) h hs (hs.setAcc _)
  | csAppend =>
    refine attempt_preserves (exec_csAppend s) h hs
      (.ite (fun _ => .error (hs.raise (by decide))) (fun hc => .ok (hs.setIb ?_)))
    rw [List.length_append, be16_length]
    omega
  | csVerify =>
    refine attempt_preserves (exec_csVerify s) h hs (.map (fun e he => hs.raise ?_) (fun v _ => hs.setAcc v))
    simp [verifyPayload_error_kind he, FaultKind.raisers]
  | frEsc =>
    exact attempt_preserves (exec_frEsc s) h hs
      (.ite (fun _ => .error (hs.raise (by decide))) (fun hc => .ok (hs.setOb (by omega))))
  | frUnesc =>
    refine attempt_preserves (exec_frUnesc s) h hs (.map (fun e he => ?_) (fun T hT => hs.setOb ?_))
    · obtain ⟨i, -, rfl⟩ := except_mapError_eq_error.mp he
      exact hs.raise (by decide)
    · exact (unescape_length (except_mapError_eq_ok.mp hT)).trans hib
  | frEnc =>
    exact attempt_preserves (exec_frEnc s) h hs
      (.ite (fun _ => .error (hs.raise (by decide))) (fun hc => .ok ((hs.setOb (by omega)).setAcc _)))
  | frDec =>
    refine attempt_preserves (exec_frDec s) h hs (.map (fun e he => hs.raise ?_) (fun T hT => hs.setOb ?_))
    · rcases decodeFrame_error_kind he with hk | hk <;> simp [hk, FaultKind.raisers]
    · exact (decodeFrame_length hT).trans hib
  | evLoad => exact operate_preserves (exec_evLoad s) h hs (hs.setEr_ofBytes s.ib)
  | evSetyear y => exact operate_preserves (exec_evSetyear s y) h hs (hs.setCy y)
  | bsSetoff v => exact operate_preserves (exec_bsSetoff s v) h hs (hs.setBoff v)
  | bsSetlen v => exact operate_preserves (exec_bsSetlen s v) h hs (hs.setBlen v)
  | plClr => exact operate_preserves (exec_plClr s) h hs (hs.setPl (Nat.zero_le _))
  | plPush p =>
    refine attempt_preserves (exec_plPush s p) h hs
      (.ite (fun _ => .error (hs.raise (by decide))) (fun hc => .ok (hs.setPl ?_)))
    rw [List.length_append, List.length_singleton]
    omega
  | bsScan =>
    refine operate_preserves (exec_bsScan s) h hs (hs.setPl ?_)
    exact (positions_length_le _ _).trans (Nat.mul_le_mul_left 8 hib)
  | bsPack =>
    refine attempt_preserves (exec_bsPack s) h hs
      (.ite (fun _ => .error (hs.raise (by decide)))
        (fun hc => .map (fun e he => hs.raise ?_) (fun B hB => hs.setOb ?_)))
    · simp [pack_error_kind he, FaultKind.raisers]
    · rw [pack_ok_length hB]
      omega

/-- Everything a word at the port can do: its operation, or IllegalOp (60_exceptions.md rule R231). -/
theorem issue_cases {w : OpWord} {s t : State} (h : issue w s = .next t) :
    (∃ i, decode w = .ok i ∧ exec i s = .next t) ∨ takeIllegalOp w s = .next t := by
  cases hd : decode w with
  | ok i => exact .inl ⟨i, rfl, issue_ok s hd ▸ h⟩
  | error e => exact .inr (issue_error s hd ▸ h)

theorem issue_preserves_wf {w : OpWord} {s t : State} (hs : s.Wf) (h : issue w s = .next t) : t.Wf := by
  rcases issue_cases h with ⟨i, -, hi⟩ | hill
  · exact exec_preserves_wf hs hi
  · exact operate_preserves rfl hill hs (hs.raise_illegalOp w)

/-- Everything a step can do: wait, issue a word, or reset. -/
theorem step_cases {s t : State} (h : step s = .next t) :
    (s.inputs = [] ∧ t = s) ∨
    (∃ w rest, s.inputs = .word w :: rest ∧ issue w (s.setInputs rest) = .next t) ∨
    (∃ rest, s.inputs = .resetLine :: rest ∧ t = (s.setInputs rest).resetBlock) := by
  rcases hin : s.inputs with _ | ⟨w | _, rest⟩
  · rw [step_idle hin] at h
    cases h
    exact .inl ⟨rfl, rfl⟩
  · exact .inr (.inl ⟨w, rest, rfl, step_word hin ▸ h⟩)
  · rw [step_resetLine hin] at h
    cases h
    exact .inr (.inr ⟨rest, rfl, rfl⟩)

/-- Settles O14, by the three things a step can do. -/
theorem stepKeepsStateWellFormed : Obligations.StepKeepsStateWellFormed := by
  intro s t hs h
  rcases step_cases h with ⟨-, rfl⟩ | ⟨w, rest, -, hw⟩ | ⟨rest, -, rfl⟩
  · exact hs
  · exact issue_preserves_wf (hs.setInputs rest) hw
  · obtain ⟨hp, -⟩ := hs
    exact State.resetWith_wf hp rest

/-! ### The state after reset -/

/-- With no fault held there is nothing to explain. -/
theorem State.Ready.faultExplained {s : State} (h : s.Ready) : s.FaultExplained := by
  simp [State.FaultExplained, show s.flt = 0 from h]

/-- Settles O16: the default parameters are legal, and no fault is held. -/
theorem resetStateIsSafeAndReady : Obligations.ResetStateIsSafeAndReady := by
  have hready : State.reset.Ready := rfl
  exact ⟨⟨State.resetWith_wf (by decide) [], hready.faultExplained⟩, hready⟩

/-- Settles O17: the state after reset and what `RST` answers are both a `resetBlock`. -/
theorem resetValuesAreTheTable : Obligations.ResetValuesAreTheTable := by
  intro t ht
  obtain ⟨s, rfl⟩ : ∃ s : State, t = s.resetBlock := by
    rcases ht with rfl | ⟨s, hs⟩
    · exact ⟨State.reset, rfl⟩
    · rw [exec_rst] at hs
      cases hs
      exact ⟨s, rfl⟩
  have hzero : ∀ k < 14, s.resetBlock.er.byte k = 0x00 := fun k hk => EventRecord.byte_ofBytes [] k hk
  simpa using hzero

end Sys2Proof.Machine
end

section
/-! What an operation writes and what it reads: the access table of 10_state.md rule R17. Each write of a piece is a
`State.withPiece`, so the laws are about that one function. -/

namespace Sys2Proof.Machine

/-! ### Pieces put in place one after another -/

theorem State.withPiece_self (s : State) (p : Piece) : s.withPiece p s = s := by
  cases p <;> rfl

/-- Two different pieces can be put in place in either order. -/
theorem State.withPiece_comm {p q : Piece} (hpq : p ≠ q) (s a b : State) :
    (s.withPiece q a).withPiece p b = (s.withPiece p b).withPiece q a := by
  cases p <;> cases q <;> simp at hpq <;> rfl

/-- Putting another piece in place leaves the piece `p` as it was. -/
theorem State.withPiece_withPiece_ne {p q : Piece} (hpq : p ≠ q) (s d : State) :
    s.withPiece p (s.withPiece q d) = s := by
  cases p <;> cases q <;> simp at hpq <;> rfl

/-- One write made to two states commutes with copying a piece from one to the other. -/
theorem State.withPiece_both (u s d : State) (p q : Piece) :
    (u.withPiece q d).withPiece p (s.withPiece q d) = (u.withPiece p s).withPiece q d := by
  cases p <;> cases q <;> rfl

/-! ### Operations write only the pieces their rows mark `w` -/

/-- `t` holds the piece `p` as `s` holds it. -/
def KeepsPiece (p : Piece) (s t : State) : Prop := t.withPiece p s = t

namespace KeepsPiece

variable {p : Piece} {s t : State}

theorem refl (p : Piece) (s : State) : KeepsPiece p s s := s.withPiece_self p

theorem withPiece (h : KeepsPiece p s t) (q : Piece) (hpq : p ≠ q) (d : State) :
    KeepsPiece p s (t.withPiece q d) := by
  unfold KeepsPiece at h ⊢
  rw [State.withPiece_comm hpq, h]

/-- Fault entry writes no piece (60_exceptions.md rule R232). -/
theorem raise (p : Piece) (op : Byte) (e : FaultInfo) (s : State) : KeepsPiece p s (raise op e s) := by
  cases p <;> rfl

end KeepsPiece

/-- One case for each operation: the pieces it writes are those of its row. -/
theorem exec_keeps_piece {i : Instr} {p : Piece} {s t : State} (hp : p ∉ writesOf i) (h : exec i s = .next t) :
    KeepsPiece p s t := by
  have hs : KeepsPiece p s s := .refl p s
  have hfault (op : Byte) (e : FaultInfo) : KeepsPiece p s (raise op e s) := .raise p op e s
  have hw (q : Piece) (hq : q ∈ writesOf i) (d : State) : KeepsPiece p s (s.withPiece q d) :=
    hs.withPiece q (ne_of_mem_of_not_mem hq hp).symm d
  cases i with
  | nop => exact operate_preserves (exec_nop s) h hs hs
  | rst => cases p <;> simp [writesOf] at hp
  | ibClr => exact operate_preserves (exec_ibClr s) h hs (hw .ib (.head _) (s.setIb _))
  | ibPush v =>
    exact attempt_preserves (exec_ibPush s v) h hs
      (.ite (fun _ => .error (hfault _ _)) (fun _ => .ok (hw .ib (.head _) (s.setIb _))))
  | bufMov => exact operate_preserves (exec_bufMov s) h hs (hw .ib (.head _) (s.setIb _))
  | ibTrim f l => exact operate_preserves (exec_ibTrim s f l) h hs (hw .ib (.head _) (s.setIb _))
  | csInit => exact operate_preserves (exec_csInit s) h hs (hw .acc (.head _) (s.setAcc _))
  | csStep v => exact operate_preserves (exec_csStep s v) h hs (hw .acc (.head _) (s.setAcc _))
  | csBuf => exact operate_preserves (exec_csBuf s) h hs (hw .acc (.head _) (s.setAcc _))
  | csAppend =>
    exact attempt_preserves (exec_csAppend s) h hs
      (.ite (fun _ => .error (hfault _ _)) (fun _ => .ok (hw .ib (.head _) (s.setIb _))))
  | csVerify =>
    exact attempt_preserves (exec_csVerify s) h hs
      (.map (fun _ _ => hfault _ _) (fun v _ => hw .acc (.head _) (s.setAcc v)))
  | frEsc =>
    exact attempt_preserves (exec_frEsc s) h hs
      (.ite (fun _ => .error (hfault _ _)) (fun _ => .ok (hw .ob (.head _) (s.setOb _))))
  | frUnesc =>
    exact attempt_preserves (exec_frUnesc s) h hs
      (.map (fun _ _ => hfault _ _) (fun T _ => hw .ob (.head _) (s.setOb T)))
  | frEnc =>
    have hacc : p ≠ .acc := List.ne_of_not_mem_cons hp
    exact attempt_preserves (exec_frEnc s) h hs
      (.ite (fun _ => .error (hfault _ _))
        (fun _ => .ok ((hw .ob (.tail _ (.head _)) (s.setOb _)).withPiece .acc hacc (s.setAcc _))))
  | frDec =>
    exact attempt_preserves (exec_frDec s) h hs
      (.map (fun _ _ => hfault _ _) (fun T _ => hw .ob (.head _) (s.setOb T)))
  | evLoad => exact operate_preserves (exec_evLoad s) h hs (hw .er (.head _) (s.setEr _ _))
  | evSetyear y => exact operate_preserves (exec_evSetyear s y) h hs (hw .cy (.head _) (s.setCy _))
  | bsSetoff v => exact operate_preserves (exec_bsSetoff s v) h hs (hw .boff (.head _) (s.setBoff _))
  | bsSetlen v => exact operate_preserves (exec_bsSetlen s v) h hs (hw .blen (.head _) (s.setBlen _))
  | plClr => exact operate_preserves (exec_plClr s) h hs (hw .pl (.head _) (s.setPl _))
  | plPush v =>
    exact attempt_preserves (exec_plPush s v) h hs
      (.ite (fun _ => .error (hfault _ _)) (fun _ => .ok (hw .pl (.head _) (s.setPl _))))
  | bsScan => exact operate_preserves (exec_bsScan s) h hs (hw .pl (.head _) (s.setPl _))
  | bsPack =>
    exact attempt_preserves (exec_bsPack s) h hs
      (.ite (fun _ => .error (hfault _ _))
        (fun _ => .map (fun _ _ => hfault _ _) (fun B _ => hw .ob (.head _) (s.setOb B))))

/-- Settles O21, by the operation's case. -/
theorem operationsWriteOnlyTheirColumns : Obligations.OperationsWriteOnlyTheirColumns := by
  intro i p s t hp h
  exact exec_keeps_piece hp h

/-! ### Operations read only the pieces their rows mark `r` -/

/-- `u` and `t` are the same in everything but possibly the piece `p`. -/
def AgreesOff (p : Piece) (u t : State) : Prop := u.withPiece p t = t

namespace AgreesOff

variable {p q : Piece} {u t : State}

/-- States that agree off `p` hold every other piece alike. -/
theorem samePiece (h : AgreesOff p u t) (hpq : q ≠ p) : u.withPiece q t = u := by
  unfold AgreesOff at h
  rw [← h]
  exact u.withPiece_withPiece_ne hpq t

theorem withPiece (h : AgreesOff p u t) (q : Piece) (d : State) :
    AgreesOff p (u.withPiece q d) (t.withPiece q d) := by
  unfold AgreesOff at h ⊢
  rw [State.withPiece_both, h]

theorem raise (h : AgreesOff p u t) (op : Byte) (e : FaultInfo) : AgreesOff p (raise op e u) (raise op e t) := by
  have hcomm : (Machine.raise op e u).withPiece p (Machine.raise op e t) = Machine.raise op e (u.withPiece p t) := by
    cases p <;> rfl
  unfold AgreesOff at h ⊢
  rw [hcomm, h]

/-- Reset forgets every piece. -/
theorem resetBlock (h : AgreesOff p u t) : AgreesOff p u.resetBlock t.resetBlock := by
  have hcomm : u.resetBlock.withPiece p t.resetBlock = (u.withPiece p t).resetBlock := by
    cases p <;> rfl
  unfold AgreesOff at h ⊢
  rw [hcomm, h]

theorem flt_eq (h : AgreesOff p u t) : u.flt = t.flt := by
  have hflt : (u.withPiece p t).flt = u.flt := by cases p <;> rfl
  rw [← hflt, h]

theorem params_eq (h : AgreesOff p u t) : u.params = t.params := by
  have hparams : (u.withPiece p t).params = u.params := by cases p <;> rfl
  rw [← hparams, h]

theorem bufSize_eq (h : AgreesOff p u t) : u.bufSize = t.bufSize := congrArg Config.Params.bufSize h.params_eq

theorem plSize_eq (h : AgreesOff p u t) : u.plSize = t.plSize := congrArg Config.Params.plSize h.params_eq

end AgreesOff

/-- What an effect computes from two states: states that agree off `p`, or the same fault. -/
inductive EffectsAgreeOff (p : Piece) : Except FaultInfo State → Except FaultInfo State → Prop
  | ok {u t : State} (h : AgreesOff p u t) : EffectsAgreeOff p (.ok u) (.ok t)
  | error {e : FaultInfo} : EffectsAgreeOff p (.error e) (.error e)

namespace EffectsAgreeOff

variable {p : Piece}

theorem ite {c : Prop} [Decidable c] {x y x' y' : Except FaultInfo State} (hx : EffectsAgreeOff p x x')
    (hy : EffectsAgreeOff p y y') : EffectsAgreeOff p (if c then x else y) (if c then x' else y') := by
  split
  · exact hx
  · exact hy

theorem map {α : Type} {k k' : α → State} (x : Except FaultInfo α) (hk : ∀ a, AgreesOff p (k a) (k' a)) :
    EffectsAgreeOff p (x.map k) (x.map k') := by
  cases x with
  | ok a => exact .ok (hk a)
  | error e => exact .error

end EffectsAgreeOff

section Frames

variable {p : Piece} {o o' : Host.Outcome State Fault Refusal} {u s t : State}

/-- `operate` from two states that agree off `p`, when the effect keeps it so: it answers such states. -/
theorem operate_agreesOff {f : State → State} (ho' : o' = operate u f) (ho : o = operate s f)
    (h : o = .next t) (hu : AgreesOff p u s) (hf : AgreesOff p (f u) (f s)) :
    ∃ v, o' = .next v ∧ AgreesOff p v t := by
  subst ho ho'
  rcases operate_cases h with ⟨hs, rfl⟩ | ⟨hs, rfl⟩
  · exact ⟨u, operate_halted (hu.flt_eq ▸ hs), hu⟩
  · exact ⟨f u, operate_ready (hu.flt_eq ▸ hs), hf⟩

/-- The same for `attempt`: it also raises the same fault from both. -/
theorem attempt_agreesOff {op : Byte} {f : State → Except FaultInfo State} (ho' : o' = attempt op u f)
    (ho : o = attempt op s f) (h : o = .next t) (hu : AgreesOff p u s) (hf : EffectsAgreeOff p (f u) (f s)) :
    ∃ v, o' = .next v ∧ AgreesOff p v t := by
  refine operate_agreesOff ho' ho h hu ?_
  generalize f u = x, f s = y at hf ⊢
  cases hf with
  | ok hvt => exact hvt
  | error => exact hu.raise op _

end Frames

/-- One case for each operation: every piece it reads is the same in both states, so it writes the same values or
raises the same fault. -/
theorem exec_agreesOff {i : Instr} {p : Piece} {u s t : State} (hp : p ∉ readsOf i) (hu : AgreesOff p u s)
    (h : exec i s = .next t) : ∃ v, exec i u = .next v ∧ AgreesOff p v t := by
  have hr (q : Piece) (hq : q ∈ readsOf i) : u.withPiece q s = u := hu.samePiece (ne_of_mem_of_not_mem hq hp)
  have hacc (hq : .acc ∈ readsOf i) : u.acc = s.acc := (congrArg State.acc (hr .acc hq)).symm
  have hib (hq : .ib ∈ readsOf i) : u.ib = s.ib := (congrArg State.ib (hr .ib hq)).symm
  have hob (hq : .ob ∈ readsOf i) : u.ob = s.ob := (congrArg State.ob (hr .ob hq)).symm
  have hboff (hq : .boff ∈ readsOf i) : u.boff = s.boff := (congrArg State.boff (hr .boff hq)).symm
  have hblen (hq : .blen ∈ readsOf i) : u.blen = s.blen := (congrArg State.blen (hr .blen hq)).symm
  have hpl (hq : .pl ∈ readsOf i) : u.pl = s.pl := (congrArg State.pl (hr .pl hq)).symm
  cases i with
  | nop => exact operate_agreesOff (exec_nop u) (exec_nop s) h hu hu
  | rst => cases h; exact ⟨u.resetBlock, rfl, hu.resetBlock⟩
  | ibClr => exact operate_agreesOff (exec_ibClr u) (exec_ibClr s) h hu (hu.withPiece .ib (s.setIb _))
  | ibPush v =>
    refine attempt_agreesOff (exec_ibPush u v) (exec_ibPush s v) h hu ?_
    rw [hib (.head _), hu.bufSize_eq]
    exact .ite .error (.ok (hu.withPiece .ib (s.setIb _)))
  | bufMov =>
    refine operate_agreesOff (exec_bufMov u) (exec_bufMov s) h hu ?_
    rw [hob (.head _)]
    exact hu.withPiece .ib (s.setIb _)
  | ibTrim f l =>
    refine operate_agreesOff (exec_ibTrim u f l) (exec_ibTrim s f l) h hu ?_
    rw [hib (.head _)]
    exact hu.withPiece .ib (s.setIb _)
  | csInit => exact operate_agreesOff (exec_csInit u) (exec_csInit s) h hu (hu.withPiece .acc (s.setAcc _))
  | csStep v =>
    refine operate_agreesOff (exec_csStep u v) (exec_csStep s v) h hu ?_
    rw [hacc (.head _)]
    exact hu.withPiece .acc (s.setAcc _)
  | csBuf =>
    refine operate_agreesOff (exec_csBuf u) (exec_csBuf s) h hu ?_
    rw [hib (.head _)]
    exact hu.withPiece .acc (s.setAcc _)
  | csAppend =>
    refine attempt_agreesOff (exec_csAppend u) (exec_csAppend s) h hu ?_
    rw [hacc (.head _), hib (.tail _ (.head _)), hu.bufSize_eq]
    exact .ite .error (.ok (hu.withPiece .ib (s.setIb _)))
  | csVerify =>
    refine attempt_agreesOff (exec_csVerify u) (exec_csVerify s) h hu ?_
    rw [hib (.head _)]
    exact .map _ (fun v => hu.withPiece .acc (s.setAcc v))
  | frEsc =>
    refine attempt_agreesOff (exec_frEsc u) (exec_frEsc s) h hu ?_
    rw [hib (.head _), hu.bufSize_eq]
    exact .ite .error (.ok (hu.withPiece .ob (s.setOb _)))
  | frUnesc =>
    refine attempt_agreesOff (exec_frUnesc u) (exec_frUnesc s) h hu ?_
    rw [hib (.head _)]
    exact .map _ (fun T => hu.withPiece .ob (s.setOb T))
  | frEnc =>
    refine attempt_agreesOff (exec_frEnc u) (exec_frEnc s) h hu ?_
    rw [hib (.head _), hu.bufSize_eq]
    exact .ite .error (.ok ((hu.withPiece .ob (s.setOb _)).withPiece .acc (s.setAcc _)))
  | frDec =>
    refine attempt_agreesOff (exec_frDec u) (exec_frDec s) h hu ?_
    rw [hib (.head _)]
    exact .map _ (fun T => hu.withPiece .ob (s.setOb T))
  | evLoad =>
    refine operate_agreesOff (exec_evLoad u) (exec_evLoad s) h hu ?_
    rw [hib (.head _)]
    exact hu.withPiece .er (s.setEr _ _)
  | evSetyear y => exact operate_agreesOff (exec_evSetyear u y) (exec_evSetyear s y) h hu (hu.withPiece .cy (s.setCy _))
  | bsSetoff v =>
    exact operate_agreesOff (exec_bsSetoff u v) (exec_bsSetoff s v) h hu (hu.withPiece .boff (s.setBoff _))
  | bsSetlen v =>
    exact operate_agreesOff (exec_bsSetlen u v) (exec_bsSetlen s v) h hu (hu.withPiece .blen (s.setBlen _))
  | plClr => exact operate_agreesOff (exec_plClr u) (exec_plClr s) h hu (hu.withPiece .pl (s.setPl _))
  | plPush v =>
    refine attempt_agreesOff (exec_plPush u v) (exec_plPush s v) h hu ?_
    rw [hpl (.head _), hu.plSize_eq]
    exact .ite .error (.ok (hu.withPiece .pl (s.setPl _)))
  | bsScan =>
    refine operate_agreesOff (exec_bsScan u) (exec_bsScan s) h hu ?_
    rw [hib (.head _), hboff (.tail _ (.head _))]
    exact hu.withPiece .pl (s.setPl _)
  | bsPack =>
    refine attempt_agreesOff (exec_bsPack u) (exec_bsPack s) h hu ?_
    rw [hboff (.head _), hblen (.tail _ (.head _)), hpl (.tail _ (.tail _ (.head _))), hu.bufSize_eq]
    exact .ite .error (.map _ (fun B => hu.withPiece .ob (s.setOb B)))

/-- Settles O22: a state and the same state with another piece `p` agree off `p`. -/
theorem operationsReadOnlyTheirColumns : Obligations.OperationsReadOnlyTheirColumns := by
  intro i p s d t hp h
  have hu : AgreesOff p (s.withPiece p d) s := by cases p <;> rfl
  exact exec_agreesOff hp hu h

end Sys2Proof.Machine
end

section
/-! The fields and the derived views of the event record in natural numbers (10_state.md rules R20 to R32). -/

namespace Sys2Proof.Machine

/-! ### Bits of a byte as quotients and remainders -/

/-- Bits `start` to `start + len - 1` of a byte. -/
theorem byte_bits_toNat (x : Byte) (start len : Nat) :
    (x.extractLsb' start len).toNat = x.toNat / 2 ^ start % 2 ^ len := by
  rw [BitVec.extractLsb'_toNat, Nat.shiftRight_eq_div_pow]

/-- The low `len` bits of a byte. -/
theorem byte_low_bits_toNat (x : Byte) (len : Nat) : (x.extractLsb' 0 len).toNat = x.toNat % 2 ^ len := by
  rw [byte_bits_toNat, Nat.pow_zero, Nat.div_one]

/-- Bits `start` to 7 of a byte. -/
theorem byte_top_bits_toNat (x : Byte) (start len : Nat) (h : start + len = 8) :
    (x.extractLsb' start len).toNat = x.toNat / 2 ^ start := by
  have hx : x.toNat < 2 ^ start * 2 ^ len := by
    rw [← Nat.pow_add, h]
    exact x.isLt
  rw [byte_bits_toNat, Nat.mod_eq_of_lt (Nat.div_lt_of_lt_mul hx)]

/-- One bit of a byte. -/
theorem byte_bit_iff (x : Byte) (i : Nat) : x.getLsbD i = true ↔ x.toNat / 2 ^ i % 2 = 1 := by
  rw [← BitVec.testBit_toNat, Nat.testBit_eq_decide_div_mod_eq, decide_eq_true_iff]

/-! ### The derived views -/

/-- Three bytes, most significant first, fit in 24 bits. -/
theorem three_bytes_toNat (a b c : Byte) :
    (BitVec.ofNat 24 (a.toNat * 65536 + b.toNat * 256 + c.toNat)).toNat =
      a.toNat * 65536 + b.toNat * 256 + c.toNat := by
  have ha := a.isLt
  have hb := b.isLt
  have hc := c.isLt
  rw [BitVec.toNat_ofNat]
  omega

variable (s : State)

theorem State.code_toNat : s.code.toNat = s.codeHigh.toNat * 256 + s.codeLow.toNat := by
  have hh := s.codeHigh.isLt
  have hl := s.codeLow.isLt
  rw [State.code, BitVec.toNat_ofNat]
  omega

theorem State.minutes_toNat : s.minutes.toNat = s.minutesHigh.toNat * 256 + s.minutesLow.toNat := by
  have hh := s.minutesHigh.isLt
  have hl := s.minutesLow.isLt
  rw [State.minutes, BitVec.toNat_ofNat]
  omega

theorem State.hh_toNat : s.hh.toNat = s.minutes.toNat / 60 := by
  have hm := s.minutes.isLt
  rw [State.hh, BitVec.toNat_ofNat]
  omega

theorem State.mm_toNat : s.mm.toNat = s.minutes.toNat % 60 := by
  rw [State.mm, BitVec.toNat_ofNat]
  omega

/-- The sum does not pass 16 bits: `cy - cy mod 4` is at most 65532 and `year` at most 3. -/
theorem State.absYear_toNat : s.absYear.toNat = s.cy.toNat - s.cy.toNat % 4 + s.year.toNat := by
  have hcy := s.cy.isLt
  have hyear := s.year.isLt
  have hmod : (s.cy % 4#16).toNat = s.cy.toNat % 4 := BitVec.toNat_umod
  have hle : s.cy % 4#16 ≤ s.cy := by
    rw [BitVec.le_def, hmod]
    exact Nat.mod_le _ _
  rw [State.absYear, BitVec.toNat_add, BitVec.toNat_sub_of_le hle, hmod, BitVec.toNat_setWidth]
  omega

/-! ### The statements -/

/-- Settles O45, a field at a time: each is a run of bits of its byte. -/
theorem recordFieldsLieWhereTheLayoutSays : Obligations.RecordFieldsLieWhereTheLayoutSays := by
  intro s b hb
  rw [hb 0 (by decide), hb 1 (by decide), hb 2 (by decide), hb 3 (by decide), hb 4 (by decide), hb 5 (by decide),
    hb 6 (by decide), hb 7 (by decide)]
  exact ⟨byte_low_bits_toNat _ 2, byte_bits_toNat _ 2 2, byte_bit_iff _ 4, byte_bit_iff _ 5,
    byte_top_bits_toNat _ 6 2 rfl, byte_low_bits_toNat _ 5, byte_top_bits_toNat _ 5 3 rfl, byte_low_bits_toNat _ 4,
    byte_top_bits_toNat _ 4 4 rfl, rfl, byte_low_bits_toNat _ 2, byte_bit_iff _ 2, byte_top_bits_toNat _ 3 5 rfl,
    rfl, rfl, byte_low_bits_toNat _ 5, byte_top_bits_toNat _ 5 3 rfl, rfl, rfl⟩

/-- Settles O46, by the views' formulas: no sum passes the width of its view. -/
theorem derivedViewsFollowTheirFormulas : Obligations.DerivedViewsFollowTheirFormulas := by
  intro s b hb
  rw [hb 8 (by decide), hb 9 (by decide), hb 10 (by decide), hb 11 (by decide), hb 12 (by decide), hb 13 (by decide)]
  have hcode := s.code.isLt
  have hminutes := s.minutes.isLt
  have hhh := s.hh_toNat
  have hmm := s.mm_toNat
  exact ⟨three_bytes_toNat _ _ _, three_bytes_toNat _ _ _, s.code_toNat, by omega, s.minutes_toNat, by omega,
    hhh, by omega, hmm, by omega, s.absYear_toNat⟩

end Sys2Proof.Machine
end

section
/-! Every step answers a next state, and only the port takes inputs (20_memory.md rule R51): no operation and no fault
writes the inputs still to come or the parameters. -/

namespace Sys2Proof.Machine

/-- `t` holds the inputs still to come and the parameters as `s` holds them. -/
def SamePort (s t : State) : Prop := t.inputs = s.inputs ∧ t.params = s.params

theorem SamePort.refl (s : State) : SamePort s s := ⟨rfl, rfl⟩

/-- Fault entry writes the fault registers alone (60_exceptions.md rule R232). -/
theorem SamePort.raise (op : Byte) (e : FaultInfo) (s : State) : SamePort s (raise op e s) := ⟨rfl, rfl⟩

/-- The outcome is a next state, with the port as it was. -/
def AnswersSamePort (s : State) (o : Host.Outcome State Fault Refusal) : Prop := ∃ t, o = .next t ∧ SamePort s t

/-- What a fault of an effect satisfies can be weakened. -/
theorem Yields.mono {P : State → Prop} {E E' : FaultInfo → Prop} {x : Except FaultInfo State} (h : Yields P E x)
    (hE : ∀ e, E e → E' e) : Yields P E' x := by
  cases h with
  | ok ht => exact .ok ht
  | error he => exact .error (hE _ he)

section Frames

variable {o : Host.Outcome State Fault Refusal} {s : State}

theorem operate_answersSamePort {f : State → State} (ho : o = operate s f) (hf : SamePort s (f s)) :
    AnswersSamePort s o :=
  ⟨_, ho, operate_preserves rfl rfl (.refl s) hf⟩

/-- Nothing is asked of a fault: its entry leaves the port as it was. -/
theorem attempt_answersSamePort {op : Byte} {f : State → Except FaultInfo State} (ho : o = attempt op s f)
    (hf : Yields (SamePort s) (fun _ => True) (f s)) : AnswersSamePort s o :=
  ⟨_, ho, attempt_preserves rfl rfl (.refl s) (hf.mono fun e _ => .raise op e s)⟩

end Frames

/-- One case for each operation: its frame answers a next state, and its effect writes no field of the port. -/
theorem exec_answersSamePort (i : Instr) (s : State) : AnswersSamePort s (exec i s) := by
  cases i with
  | nop => exact operate_answersSamePort (exec_nop s) ⟨rfl, rfl⟩
  | rst => exact ⟨_, exec_rst s, rfl, rfl⟩
  | ibClr => exact operate_answersSamePort (exec_ibClr s) ⟨rfl, rfl⟩
  | ibPush v =>
    exact attempt_answersSamePort (exec_ibPush s v)
      (.ite (fun _ => .error trivial) (fun _ => .ok ⟨rfl, rfl⟩))
  | bufMov => exact operate_answersSamePort (exec_bufMov s) ⟨rfl, rfl⟩
  | ibTrim f l => exact operate_answersSamePort (exec_ibTrim s f l) ⟨rfl, rfl⟩
  | csInit => exact operate_answersSamePort (exec_csInit s) ⟨rfl, rfl⟩
  | csStep v => exact operate_answersSamePort (exec_csStep s v) ⟨rfl, rfl⟩
  | csBuf => exact operate_answersSamePort (exec_csBuf s) ⟨rfl, rfl⟩
  | csAppend =>
    exact attempt_answersSamePort (exec_csAppend s)
      (.ite (fun _ => .error trivial) (fun _ => .ok ⟨rfl, rfl⟩))
  | csVerify => exact attempt_answersSamePort (exec_csVerify s) (.map (fun _ _ => trivial) (fun _ _ => ⟨rfl, rfl⟩))
  | frEsc => exact attempt_answersSamePort (exec_frEsc s) (.ite (fun _ => .error trivial) (fun _ => .ok ⟨rfl, rfl⟩))
  | frUnesc => exact attempt_answersSamePort (exec_frUnesc s) (.map (fun _ _ => trivial) (fun _ _ => ⟨rfl, rfl⟩))
  | frEnc => exact attempt_answersSamePort (exec_frEnc s) (.ite (fun _ => .error trivial) (fun _ => .ok ⟨rfl, rfl⟩))
  | frDec => exact attempt_answersSamePort (exec_frDec s) (.map (fun _ _ => trivial) (fun _ _ => ⟨rfl, rfl⟩))
  | evLoad => exact operate_answersSamePort (exec_evLoad s) ⟨rfl, rfl⟩
  | evSetyear y => exact operate_answersSamePort (exec_evSetyear s y) ⟨rfl, rfl⟩
  | bsSetoff v => exact operate_answersSamePort (exec_bsSetoff s v) ⟨rfl, rfl⟩
  | bsSetlen v => exact operate_answersSamePort (exec_bsSetlen s v) ⟨rfl, rfl⟩
  | plClr => exact operate_answersSamePort (exec_plClr s) ⟨rfl, rfl⟩
  | plPush p =>
    exact attempt_answersSamePort (exec_plPush s p)
      (.ite (fun _ => .error trivial) (fun _ => .ok ⟨rfl, rfl⟩))
  | bsScan => exact operate_answersSamePort (exec_bsScan s) ⟨rfl, rfl⟩
  | bsPack =>
    exact attempt_answersSamePort (exec_bsPack s)
      (.ite (fun _ => .error trivial) (fun _ => .map (fun _ _ => trivial) (fun _ _ => ⟨rfl, rfl⟩)))

/-- A word at the port, legal or not, takes no further input. -/
theorem issue_answersSamePort (w : OpWord) (s : State) : AnswersSamePort s (issue w s) := by
  cases hd : decode w with
  | ok i =>
    rw [issue_ok s hd]
    exact exec_answersSamePort i s
  | error e =>
    rw [issue_error s hd]
    exact operate_answersSamePort rfl (.raise _ _ s)

/-- Settles O10, by what stands first at the port: nothing, a word, or the reset input. -/
theorem everyStepTakesOneInput : Obligations.EveryStepTakesOneInput := by
  intro s
  rcases hin : s.inputs with _ | ⟨w | _, rest⟩
  · exact ⟨s, step_idle hin, hin, rfl⟩
  · obtain ⟨t, ht, hport⟩ := issue_answersSamePort w (s.setInputs rest)
    exact ⟨t, (step_word hin).trans ht, hport⟩
  · exact ⟨_, step_resetLine hin, rfl, rfl⟩

end Sys2Proof.Machine
end

section
/-! The decoder against the encoder, against the opcode table, and along byte strings of stored words
(30_encoding.md rules R60 to R68). -/

namespace Sys2Proof

/-! ### The decoder and the encoder -/

/-- Only `imm16` needs a law: its two bytes join to the operand again. -/
theorem decode_encode (i : Instr) : decode (encode i) = .ok i := by
  rw [decode_ok_iff]
  cases i with
  | evSetyear v => exact congrArg (some ∘ Instr.evSetyear) (Machine.imm16_hiByte_loByte v)
  | plPush v => exact congrArg (some ∘ Instr.plPush) (Machine.imm16_hiByte_loByte v)
  | _ => rfl

theorem encode_of_decodeZ {op : Byte} {i : Instr} (h : decodeZ op = some i) : encode i = .one op := by
  unfold decodeZ at h
  split at h <;> cases h <;> rfl

theorem encode_of_decodeB {op imm8 : Byte} {i : Instr} (h : decodeB op imm8 = some i) :
    encode i = .two op imm8 := by
  unfold decodeB at h
  split at h <;> cases h <;> rfl

theorem encode_of_decodeH {op b1 b2 : Byte} {i : Instr} (h : decodeH op b1 b2 = some i) :
    encode i = .three op b1 b2 := by
  unfold decodeH at h
  split at h <;> cases h <;> simp [encode, Machine.hiByte_imm16, Machine.loByte_imm16]

/-- No second word decodes to the same operation: one lemma for each format. -/
theorem encode_of_decode {w : OpWord} {i : Instr} (h : decode w = .ok i) : encode i = w := by
  rw [decode_ok_iff] at h
  cases w with
  | one op => exact encode_of_decodeZ h
  | two op imm8 => exact encode_of_decodeB h
  | three op b1 b2 => exact encode_of_decodeH h

/-- Settles O1, one direction by the cases of the operation, the other by the formats of the word. -/
theorem decodeAndEncodeAgree : Obligations.DecodeAndEncodeAgree := by
  intro w i
  constructor
  · intro h
    exact (encode_of_decode h).symm
  · rintro rfl
    exact decode_encode i

/-- Settles O5: each word is the encoding of its operation. -/
theorem writtenOutWordsDecode : Obligations.WrittenOutWordsDecode :=
  ⟨decode_encode .rst, decode_encode (.ibPush 0x1C), decode_encode (.ibTrim 0x01 0x02),
    decode_encode (.csStep 0x09), decode_encode .frDec, decode_encode (.evSetyear 2017), decode_encode (.plPush 14)⟩

/-! ### The rows of the opcode table -/

/-- The format a word has by its number of bytes (rules R61 to R63). -/
def OpWord.format : OpWord → Format
  | .one _ => .z
  | .two _ _ => .b
  | .three _ _ _ => .h

@[simp] theorem OpWord.format_length (w : OpWord) : w.format.length = w.length := by
  cases w <;> rfl

theorem Format.length_inj {f g : Format} : f.length = g.length ↔ f = g := by
  cases f <;> cases g <;> decide

/-- Masking with a byte moved up by `k` bytes keeps that byte of the number and clears the rest. -/
theorem and_byte_mask (n k : Nat) : n &&& (0xFF * 256 ^ k) = n / 256 ^ k % 256 * 256 ^ k := by
  rw [show 256 ^ k = 2 ^ (8 * k) from (pow_mul 2 8 k).symm,
    show n / 2 ^ (8 * k) % 256 = n / 2 ^ (8 * k) &&& 0xFF from (Nat.and_two_pow_sub_one_eq_mod _ 8).symm]
  apply Nat.eq_of_testBit_eq
  intro i
  simp only [Nat.testBit_and, Nat.testBit_mul_two_pow, Nat.testBit_div_two_pow]
  by_cases h : 8 * k ≤ i <;> simp [h]

/-- The opcode byte is the highest byte of the word's number (rule R64). -/
theorem OpWord.number_and_opcode_mask (w : OpWord) :
    w.number &&& (0xFF * 256 ^ (w.length - 1)) = w.opcode.toNat * 256 ^ (w.length - 1) := by
  rw [and_byte_mask]
  congr 1
  cases w
  all_goals
    simp only [number, length, opcode]
    omega

/-- The opcode byte of a row: the highest byte of its pattern. -/
def OpcodeRow.opcode (r : OpcodeRow) : Byte := BitVec.ofNat 8 (r.pattern / 256 ^ (r.format.length - 1))

/-- The mask of a row selects the opcode byte, and its pattern has no other bits (rule R64). -/
theorem opcodeTable_mask_and_pattern : ∀ r ∈ opcodeTable,
    r.mask = 0xFF * 256 ^ (r.format.length - 1) ∧
      r.pattern = r.opcode.toNat * 256 ^ (r.format.length - 1) := by decide

/-- The decoder's formats are those of the table. -/
theorem opcodeTable_formatOf : ∀ r ∈ opcodeTable, formatOf r.opcode = some r.format := by decide

theorem opcodeTable_opcodes_nodup : (opcodeTable.map OpcodeRow.opcode).Nodup := by decide

/-- A row of the table accepts the words of its format with its opcode byte (rules R64, R67). -/
theorem OpcodeRow.accepts_iff {r : OpcodeRow} (hr : r ∈ opcodeTable) (w : OpWord) :
    r.accepts w = true ↔ w.format = r.format ∧ w.opcode = r.opcode := by
  obtain ⟨hmask, hpattern⟩ := opcodeTable_mask_and_pattern r hr
  simp only [accepts, Bool.and_eq_true, decide_eq_true_eq, hmask, ← Format.length_inj, OpWord.format_length]
  refine and_congr_right fun hlen => ?_
  rw [← hlen, w.number_and_opcode_mask, hpattern, hlen, BitVec.toNat_eq]
  exact Nat.mul_left_inj (by positivity)

/-- The table read by row and the decoder's map of formats agree on an accepted word. -/
theorem OpcodeRow.formatOf_of_accepts {r : OpcodeRow} {w : OpWord} (hr : r ∈ opcodeTable)
    (h : r.accepts w = true) : formatOf w.opcode = some w.format := by
  obtain ⟨hformat, hop⟩ := (accepts_iff hr w).1 h
  rw [hop, hformat]
  exact opcodeTable_formatOf r hr

/-- No word is accepted by two rows. -/
theorem OpcodeRow.eq_of_accepts {r r' : OpcodeRow} {w : OpWord} (hr : r ∈ opcodeTable) (hr' : r' ∈ opcodeTable)
    (h : r.accepts w = true) (h' : r'.accepts w = true) : r = r' := by
  have hop : r.opcode = r'.opcode :=
    ((accepts_iff hr w).1 h).2.symm.trans ((accepts_iff hr' w).1 h').2
  exact List.inj_on_of_nodup_map opcodeTable_opcodes_nodup hr hr' hop

/-- The rows that accept a word are the one row found to accept it. -/
theorem OpcodeRow.filter_accepts {r : OpcodeRow} {w : OpWord} (hr : r ∈ opcodeTable) (h : r.accepts w = true) :
    opcodeTable.filter (fun r' => r'.accepts w) = [r] := by
  have honly : ∀ r' ∈ opcodeTable, r'.accepts w = (r' == r) := by
    intro r' hr'
    rw [Bool.eq_iff_iff, beq_iff_eq]
    exact ⟨fun h' => eq_of_accepts hr' hr h' h, fun he => he ▸ h⟩
  have hcount : opcodeTable.count r = 1 := List.count_eq_one_of_mem opcodeTable_opcodes_nodup.of_map hr
  rw [List.filter_congr honly, List.filter_beq, hcount, List.replicate_one]

/-- The word of every operation agrees with its row: the lemmas for the single operations, put together. -/
theorem encodesToItsRow (i : Instr) : Laws.EncodesToItsRow.Statement i := by
  cases i with
  | nop => exact Laws.EncodesToItsRow.nop
  | rst => exact Laws.EncodesToItsRow.rst
  | ibClr => exact Laws.EncodesToItsRow.ibClr
  | ibPush v => exact Laws.EncodesToItsRow.ibPush v
  | bufMov => exact Laws.EncodesToItsRow.bufMov
  | ibTrim f l => exact Laws.EncodesToItsRow.ibTrim f l
  | csInit => exact Laws.EncodesToItsRow.csInit
  | csStep v => exact Laws.EncodesToItsRow.csStep v
  | csBuf => exact Laws.EncodesToItsRow.csBuf
  | csAppend => exact Laws.EncodesToItsRow.csAppend
  | csVerify => exact Laws.EncodesToItsRow.csVerify
  | frEsc => exact Laws.EncodesToItsRow.frEsc
  | frUnesc => exact Laws.EncodesToItsRow.frUnesc
  | frEnc => exact Laws.EncodesToItsRow.frEnc
  | frDec => exact Laws.EncodesToItsRow.frDec
  | evLoad => exact Laws.EncodesToItsRow.evLoad
  | evSetyear y => exact Laws.EncodesToItsRow.evSetyear y
  | bsSetoff v => exact Laws.EncodesToItsRow.bsSetoff v
  | bsSetlen v => exact Laws.EncodesToItsRow.bsSetlen v
  | plClr => exact Laws.EncodesToItsRow.plClr
  | plPush p => exact Laws.EncodesToItsRow.plPush p
  | bsScan => exact Laws.EncodesToItsRow.bsScan
  | bsPack => exact Laws.EncodesToItsRow.bsPack

theorem exists_row_accepts_encode (i : Instr) :
    ∃ r ∈ opcodeTable, r.mnemonic = i.mnemonic ∧ r.accepts (encode i) = true := by
  obtain ⟨r, hr, hname, hlen, hpattern⟩ := encodesToItsRow i
  rw [← OpWord.format_length, Format.length_inj] at hlen
  refine ⟨r, hr, hname, (OpcodeRow.accepts_iff hr _).2 ⟨hlen, ?_⟩⟩
  rw [OpcodeRow.opcode, ← hpattern, Nat.mul_div_cancel _ (by positivity), BitVec.ofNat_toNat, BitVec.setWidth_eq]

/-- The format its opcode byte selects is the format of every encoded word. -/
theorem formatOf_encode (i : Instr) : formatOf (encode i).opcode = some (encode i).format := by
  obtain ⟨r, hr, -, hacc⟩ := exists_row_accepts_encode i
  exact OpcodeRow.formatOf_of_accepts hr hacc

/-- A word of the format its opcode byte selects is decoded: one decoder for each format. -/
theorem exists_decode_of_formatOf {w : OpWord} (h : formatOf w.opcode = some w.format) :
    ∃ i, decode w = .ok i := by
  simp only [decode_ok_iff, ← Option.isSome_iff_exists]
  cases w
  all_goals
    simp only [OpWord.opcode, formatOf] at h
    split at h <;> cases h <;> rfl

/-- Settles O3: a decoded word is the word of its operation (O1), and that word has exactly one row. -/
theorem decoderFollowsTheOpcodeTable : Obligations.DecoderFollowsTheOpcodeTable := by
  refine ⟨fun w => ⟨?_, ?_⟩, ?_⟩
  · rintro ⟨i, h⟩
    obtain ⟨r, hr, -, hacc⟩ := exists_row_accepts_encode i
    exact List.any_eq_true.2 ⟨r, hr, encode_of_decode h ▸ hacc⟩
  · intro h
    obtain ⟨r, hr, hacc⟩ := List.any_eq_true.1 h
    exact exists_decode_of_formatOf (OpcodeRow.formatOf_of_accepts hr hacc)
  · intro w i h
    obtain ⟨r, hr, hname, hacc⟩ := exists_row_accepts_encode i
    rw [encode_of_decode h] at hacc
    rw [OpcodeRow.filter_accepts hr hacc, List.map_singleton, hname]

/-! ### Opcode bytes in no row -/

/-- The bytes left over by the rows of the decoder's map (rule R67). -/
theorem formatOf_eq_none_iff (op : Byte) : formatOf op = none ↔
    (0x06 ≤ op.toNat ∧ op.toNat ≤ 0x0F) ∨ (0x15 ≤ op.toNat ∧ op.toNat ≤ 0x1F) ∨
    (0x24 ≤ op.toNat ∧ op.toNat ≤ 0x2F) ∨ (0x32 ≤ op.toNat ∧ op.toNat ≤ 0x3F) ∨
    (0x46 ≤ op.toNat ∧ op.toNat ≤ 0xFF) := by
  unfold formatOf
  split
  case h_24 =>
    simp only [← BitVec.toNat_inj, BitVec.toNat_ofNat, imp_false, true_iff] at *
    omega
  all_goals decide

/-- The numbers below `a * b`, in `a` blocks of `b`. -/
theorem range_mul_eq_blocks (a b : Nat) :
    List.range (a * b) = (List.range a).flatMap (fun k => (List.range b).map (k * b + ·)) := by
  induction a with
  | zero => simp
  | succ a ih => simp [Nat.succ_mul, List.range_add, List.range_succ, ih]

/-- The count is taken unit by unit, the unit being the high half of the opcode byte. -/
theorem unlisted_opcodes_count :
    ((List.range 256).filter (fun n => (formatOf (BitVec.ofNat 8 n)).isNone)).length = 233 := by
  rw [show 256 = 16 * 16 from rfl, range_mul_eq_blocks, List.filter_flatMap, List.length_flatMap]
  decide

/-- Settles O4: the ranges by the rows of `formatOf`, the count unit by unit. -/
theorem unlistedOpcodeBytesAreIllegal : Obligations.UnlistedOpcodeBytesAreIllegal :=
  ⟨formatOf_eq_none_iff, unlisted_opcodes_count⟩

/-! ### Words stored back to back -/

/-- A word of the format its opcode byte selects is cut off whole, whatever follows. -/
theorem splitWords_bytes_append {w : OpWord} (h : formatOf w.opcode = some w.format) (tail : List Byte) :
    splitWords (w.bytes ++ tail) = w :: splitWords tail := by
  cases w with
  | one op =>
    have hz : formatOf op = some .z := h
    rcases tail with _ | ⟨b, _ | ⟨c, rest⟩⟩ <;> simp [OpWord.bytes, splitWords, hz]
  | two op imm8 =>
    have hb : formatOf op = some .b := h
    cases tail <;> simp [OpWord.bytes, splitWords, hb]
  | three op b1 b2 =>
    have hh : formatOf op = some .h := h
    simp [OpWord.bytes, splitWords, hh]

/-- An illegal opcode byte is a word by itself (rule R68). -/
theorem splitWords_illegal_cons {op : Byte} (h : formatOf op = none) (tail : List Byte) :
    splitWords (op :: tail) = .one op :: splitWords tail := by
  rcases tail with _ | ⟨b, _ | ⟨c, rest⟩⟩ <;> simp [splitWords, h]

theorem splitWords_encoded (ops : List Instr) (tail : List Byte) :
    splitWords (ops.flatMap (fun i => (encode i).bytes) ++ tail) = ops.map encode ++ splitWords tail := by
  induction ops with
  | nil => rfl
  | cons i ops ih =>
    rw [List.flatMap_cons, List.append_assoc, splitWords_bytes_append (formatOf_encode i), ih]
    rfl

/-- Settles O2: every encoded word has the format its opcode byte selects, so each is cut off whole. -/
theorem storedWordsAreReadBack : Obligations.StoredWordsAreReadBack :=
  ⟨splitWords_encoded, fun _ tail h => splitWords_illegal_cons h tail⟩

end Sys2Proof
end

section
/-! A step with a legal word at the port, and with nothing there (30_encoding.md rule R60, 20_memory.md rule R51). -/

namespace Sys2Proof.Machine

/-- Settles O6: the port hands the word to `issue`, which runs the decoded operation. -/
theorem stepRunsTheDecodedOperation : Obligations.StepRunsTheDecodedOperation := by
  intro s w rest i hin hdecode
  exact (step_word hin).trans (issue_ok _ hdecode)

/-- Settles O9: the port's idle case (log entry 3). -/
theorem stepWithoutInputChangesNothing : Obligations.StepWithoutInputChangesNothing :=
  fun _ hin => step_idle hin

end Sys2Proof.Machine
end

section
/-! The control and buffer operations `NOP`, `RST`, `IB.CLR`, `IB.PUSH`, `BUF.MOV`, `IB.TRIM`
(40_control_buffer.md rules R90 to R96). -/

namespace Sys2Proof.Machine

/-- The halt check stands before the effect of every operation but `RST`, whose meaning runs in no frame
(40_control_buffer.md rule R90 (a)). -/
theorem exec_halted {i : Instr} {s : State} (hs : s.flt ≠ 0) (hi : i ≠ .rst) : exec i s = .next s := by
  cases i with
  | nop => rw [exec_nop, operate_halted hs]
  | rst => exact absurd rfl hi
  | ibClr => rw [exec_ibClr, operate_halted hs]
  | ibPush v => rw [exec_ibPush, attempt_halted hs]
  | bufMov => rw [exec_bufMov, operate_halted hs]
  | ibTrim f l => rw [exec_ibTrim, operate_halted hs]
  | csInit => rw [exec_csInit, operate_halted hs]
  | csStep v => rw [exec_csStep, operate_halted hs]
  | csBuf => rw [exec_csBuf, operate_halted hs]
  | csAppend => rw [exec_csAppend, attempt_halted hs]
  | csVerify => rw [exec_csVerify, attempt_halted hs]
  | frEsc => rw [exec_frEsc, attempt_halted hs]
  | frUnesc => rw [exec_frUnesc, attempt_halted hs]
  | frEnc => rw [exec_frEnc, attempt_halted hs]
  | frDec => rw [exec_frDec, attempt_halted hs]
  | evLoad => rw [exec_evLoad, operate_halted hs]
  | evSetyear y => rw [exec_evSetyear, operate_halted hs]
  | bsSetoff v => rw [exec_bsSetoff, operate_halted hs]
  | bsSetlen v => rw [exec_bsSetlen, operate_halted hs]
  | plClr => rw [exec_plClr, operate_halted hs]
  | plPush p => rw [exec_plPush, attempt_halted hs]
  | bsScan => rw [exec_bsScan, operate_halted hs]
  | bsPack => rw [exec_bsPack, attempt_halted hs]

/-- What the reset input does is what `RST` does, with that input gone from the port (70_reset_and_hazards.md rule
R250). -/
theorem step_resetLine_eq_exec_rst {s : State} {rest : List Input} (hin : s.inputs = .resetLine :: rest) :
    step s = exec .rst (s.setInputs rest) :=
  (step_resetLine hin).trans (exec_rst _).symm

/-- Settles O24: `RST` answers a `resetBlock`, whose record is the one loaded from no bytes. -/
theorem rstRestoresEveryResetValue : Obligations.RstRestoresEveryResetValue := by
  have hzero : ∀ k < 14, (EventRecord.ofBytes []).byte k = 0x00 := EventRecord.byte_ofBytes []
  refine ⟨rfl, fun s => ⟨_, hzero, exec_rst s⟩, fun s i hs hi => ?_, fun s rest hin => ?_⟩
  · exact exec_halted hs hi
  · exact step_resetLine_eq_exec_rst hin

/-- Byte `j` of what trimming leaves is byte `f + j` of the old buffer (40_control_buffer.md rule R96). -/
theorem trim_getElem? (S : List Byte) {f l j : Nat} (hj : j < (trim S f l).length) :
    (trim S f l)[j]? = S[f + j]? := by
  have hlt : j < S.length - l - f := by
    rw [trim_length] at hj
    omega
  rw [trim_eq, List.getElem?_take_of_lt hlt, List.getElem?_drop]

/-- Settles O28: the new buffer is the trimmed one, known by its length and its bytes. -/
theorem ibTrimDropsBothEnds : Obligations.IbTrimDropsBothEnds := by
  intro f l s
  refine ⟨rfl, fun hs => ⟨trim s.ib f.toNat l.toNat, ?_, trim_length _ _ _, fun j hj => trim_getElem? _ hj⟩⟩
  exact (exec_ibTrim s f l).trans (operate_ready hs)

/-- Settles O23: a halted block ignores `NOP`, and a ready one takes its empty effect. -/
theorem nopChangesNothing : Obligations.NopChangesNothing := by
  refine ⟨rfl, fun s => ?_⟩
  by_cases hs : s.flt = 0
  · exact (exec_nop s).trans (operate_ready hs)
  · exact exec_halted hs (by decide)

/-- Settles O25: the effect in a ready block. -/
theorem ibClrEmptiesIb : Obligations.IbClrEmptiesIb :=
  ⟨rfl, fun s hs => (exec_ibClr s).trans (operate_ready hs)⟩

/-- Settles O26, by the two branches of the effect: a full buffer raises BufferOverflow, any other takes the byte. -/
theorem ibPushAppendsOrOverflows : Obligations.IbPushAppendsOrOverflows := by
  refine fun v s => ⟨rfl, fun hs hfree => ?_, fun hs hfull => ?_⟩
  · exact (exec_ibPush s v).trans (attempt_ok hs (if_neg hfree))
  · rw [exec_ibPush, attempt_error hs (if_pos hfull), hfull]
    rfl

/-- Settles O27: the effect in a ready block. -/
theorem bufMovCopiesObToIb : Obligations.BufMovCopiesObToIb :=
  ⟨rfl, fun s hs => (exec_bufMov s).trans (operate_ready hs)⟩

end Sys2Proof.Machine
end

section
/-! The checksum operations `CS.INIT`, `CS.STEP`, `CS.BUF`, `CS.APPEND`, `CS.VERIFY` (41_checksum.md rules R100 to
R109). -/

namespace Sys2Proof.Machine

/-! ### Values -/

/-- Two bytes are the value they spell big-endian (20_memory.md rule R44). -/
theorem eq_imm16_iff (v : Half) (hi lo : Byte) : v = imm16 hi lo ↔ hi.toNat * 256 + lo.toNat = v.toNat := by
  rw [← imm16_toNat, ← BitVec.toNat_inj, eq_comm]

theorem be16_of_toNat {v : Half} {hi lo : Byte} (h : v.toNat = hi.toNat * 256 + lo.toNat) : be16 v = [hi, lo] := by
  rw [(eq_imm16_iff v hi lo).2 h.symm, be16, hiByte_imm16, loByte_imm16]

theorem checksum_concat (S : List Byte) (b : Byte) : checksum (S ++ [b]) = csStep (checksum S) b :=
  checksum_append S [b]

/-- Settles O31: the checksum is a fold from the left. -/
theorem checksumIsARunningFold : Obligations.ChecksumIsARunningFold :=
  ⟨rfl, checksum_concat, checksum_append⟩

/-! ### Operations that cannot fault -/

theorem exec_csInit_ready {s : State} (hs : s.flt = 0) : exec .csInit s = .next (s.setAcc (checksum [])) :=
  (exec_csInit s).trans (operate_ready hs)

theorem exec_csStep_ready {s : State} (hs : s.flt = 0) (b : Byte) :
    exec (.csStep b) s = .next (s.setAcc (csStep s.acc b)) :=
  (exec_csStep s b).trans (operate_ready hs)

/-- Settles O29: the checksum of nothing is the initial value. -/
theorem csInitLoadsTheInitialValue : Obligations.CsInitLoadsTheInitialValue :=
  ⟨rfl, fun _ hs => exec_csInit_ready hs⟩

/-- Settles O32: the effect in a ready block. -/
theorem csBufSumsIb : Obligations.CsBufSumsIb :=
  ⟨rfl, fun s hs => (exec_csBuf s).trans (operate_ready hs)⟩

/-- Settles O30, by the laws of `csStep` and `rotl16` in natural numbers. -/
theorem csStepRotatesComplementsAndAdds : Obligations.CsStepRotatesComplementsAndAdds := by
  refine fun b s => ⟨rfl, fun hs => ⟨csStep s.acc b, exec_csStep_ready hs b, ?_⟩⟩
  rintro r c hr rfl
  rw [csStep_toNat, rotl16_toNat, ← hr]

/-- One `CS.STEP` a byte folds the bytes into whatever `acc` held, and touches nothing else. -/
theorem issueAll_csSteps (S : List Byte) {s : State} (hs : s.flt = 0) :
    issueAll (S.map .csStep) s = .next (s.setAcc (S.foldl csStep s.acc)) := by
  induction S generalizing s with
  | nil => rfl
  | cons b S ih =>
    have hready : (s.setAcc (csStep s.acc b)).flt = 0 := hs
    rw [List.map_cons, issueAll_cons (exec_csStep_ready hs b), ih hready]
    rfl

/-- Settles O33: the steps fold the bytes into the initial value that `CS.INIT` left. -/
theorem csInitThenStepsIsTheChecksum : Obligations.CsInitThenStepsIsTheChecksum := by
  intro S s hs
  have hready : (s.setAcc (checksum [])).flt = 0 := hs
  rw [issueAll_cons (exec_csInit_ready hs), issueAll_csSteps S hready]
  rfl

/-! ### Operations that can fault -/

/-- Settles O34, by the two branches of the effect: too few free bytes raise BufferOverflow, else both bytes of `acc`
are appended. -/
theorem csAppendAppendsBothBytesOrOverflows : Obligations.CsAppendAppendsBothBytesOrOverflows := by
  refine ⟨rfl, fun s hi lo hacc => ⟨fun hs hfits => ?_, fun hs hover => ?_⟩⟩
  · rw [exec_csAppend, attempt_ok hs (if_neg (Nat.not_lt.2 hfits)), be16_of_toNat hacc]
    rfl
  · rw [exec_csAppend, attempt_error hs (if_pos hover)]
    rfl

/-- A verified payload loads `acc` (rule R109). -/
theorem exec_csVerify_ok {s : State} {v : Half} (hs : s.flt = 0) (hv : verifyPayload s.ib = .ok v) :
    exec .csVerify s = .next (s.setAcc v) :=
  (exec_csVerify s).trans (attempt_ok hs (congrArg (Except.map s.setAcc) hv))

/-- A payload that fails raises ChecksumError with the computed checksum (rule R109). -/
theorem exec_csVerify_error {s : State} {v : Half} (hs : s.flt = 0)
    (hv : verifyPayload s.ib = .error { kind := .checksumError, info := v.toNat }) :
    exec .csVerify s = .next (s.setFault 2 0x14 v) := by
  rw [exec_csVerify, attempt_error hs (congrArg (Except.map s.setAcc) hv), raise_eq, BitVec.ofNat_toNat,
    BitVec.setWidth_eq]
  rfl

/-- Settles O35, by what the verification of a payload of two trailing bytes, and of a shorter one, answers. -/
theorem csVerifyChecksTheTrailingChecksum : Obligations.CsVerifyChecksTheTrailingChecksum := by
  refine ⟨rfl, fun s C hi lo hs hib => ?_, fun s hs hshort => ?_⟩
  · have hpayload := verifyPayload_append C hi lo
    rw [← hib] at hpayload
    refine ⟨fun heq => ?_, fun hne => ?_⟩
    · rw [if_pos ((eq_imm16_iff _ _ _).2 heq)] at hpayload
      exact exec_csVerify_ok hs hpayload
    · rw [if_neg (mt (eq_imm16_iff _ _ _).1 hne)] at hpayload
      exact exec_csVerify_error hs hpayload
  · exact exec_csVerify_error (v := 0x147A) hs (verifyPayload_short hshort)

end Sys2Proof.Machine
end

section
/-! The framer: stuffing and its inverse, frames, and the operations `FR.ESC`, `FR.UNESC`, `FR.ENC`, `FR.DEC`
(42_framer.md rules R120 to R128). -/

namespace Sys2Proof.Machine

/-! ### Stuffing and its inverse -/

theorem unescape_escape (T : List Byte) : unescape (escape T) = .ok T := by
  have hscan := unescapeFrom_escape_append 0 T []
  simpa [unescape, unescapeFrom] using hscan

/-- The index of EscapeError counts the well-stuffed bytes before the bad `FE` (rule R121). -/
theorem unescape_escape_bad (A : List Byte) {R : List Byte} (hR : R.head? ≠ some Config.escSub) :
    unescape (escape A ++ Config.esc :: R) = .error (escape A).length := by
  rw [unescape, unescapeFrom_escape_append, unescapeFrom_bad _ hR, except_map_error, Nat.zero_add]

/-- Settles O40: a sequence with a bad `FE` yields nothing, and a well-stuffed one is unescaped to what was
escaped. -/
theorem unescapeInvertsEscape : Obligations.UnescapeInvertsEscape := by
  refine fun S T => ⟨fun hok => ?_, fun hS => hS ▸ unescape_escape T⟩
  rcases unescape_cases S with ⟨T', hS, hok'⟩ | ⟨A, R, -, -, herr⟩
  · have hT : T' = T := Except.ok.inj (hok'.symm.trans hok)
    rw [hS, hT]
  · rw [herr] at hok
    cases hok

/-- The statements' own stuffing is the model's. -/
theorem stuffed_eq_escape (S : List Byte) : stuffed S = escape S := by
  induction S with
  | nil => rfl
  | cons b S ih =>
    rw [escape_cons, ← ih]
    rfl

/-- In escaped bytes every `FE` that has a successor has `F0` as its successor. -/
theorem escape_isChain (S : List Byte) :
    (escape S).IsChain (fun a b => a = Config.esc → b = Config.escSub) := by
  induction S with
  | nil => exact .nil
  | cons b S ih =>
    by_cases hb : b = Config.esc
    · have hsub : Config.escSub ≠ Config.esc := by decide
      simpa [escape, hb, List.isChain_cons, hsub] using ih
    · simpa [escape, hb, List.isChain_cons] using ih

theorem escape_pair {S : List Byte} {b : Byte} (h : [Config.esc, b] <:+: escape S) : b = Config.escSub := by
  obtain ⟨L, R, hS⟩ := h
  have hchain := hS ▸ escape_isChain S
  exact List.isChain_pair.1 hchain.left_of_append.right_of_append rfl

/-- Settles O41: in escaped bytes only `F0` follows an `FE`. -/
theorem escapedBytesHoldNoHeaderOrFooter : Obligations.EscapedBytesHoldNoHeaderOrFooter :=
  fun _ => ⟨fun h => absurd (escape_pair h) (by decide), fun h => absurd (escape_pair h) (by decide)⟩

/-! ### Frames -/

theorem framed_eq_encodeFrame (C : List Byte) : framed C = encodeFrame C := by
  rw [framed, stuffed_eq_escape]
  rfl

/-- Every frame with a well-stuffed body is decoded, whatever the body (rule R123). -/
theorem decodeFrame_framed_escape (U : List Byte) : decodeFrame (Config.hdr ++ escape U ++ Config.ftr) = .ok U := by
  rw [decodeFrame_framed, unescape_escape, except_mapError_ok]

theorem decodeFrame_framed_bad (A : List Byte) {R : List Byte} (hR : R.head? ≠ some Config.escSub) :
    decodeFrame (Config.hdr ++ (escape A ++ Config.esc :: R) ++ Config.ftr) =
      .error { kind := .escapeError, info := (escape A).length + 2 } := by
  rw [decodeFrame_framed, unescape_escape_bad A hR, except_mapError_error]

theorem decodeFrame_encodeFrame (C : List Byte) : decodeFrame (encodeFrame C) = .ok (C ++ be16 (checksum C)) :=
  decodeFrame_framed_escape _

theorem decodeFrame_short {R : List Byte} (hlen : R.length < 4) :
    decodeFrame R = .error { kind := .framingError, info := 1 } := by
  rcases decodeFrame_cases R with ⟨-, h⟩ | ⟨hge, -⟩ | ⟨hge, -⟩ | ⟨B, rfl, -⟩
  · exact h
  · omega
  · omega
  · simp at hlen
    omega

theorem decodeFrame_bad_header {R : List Byte} (hlen : 4 ≤ R.length) (hhdr : R.take 2 ≠ [0xFE, 0xFE]) :
    decodeFrame R = .error { kind := .framingError, info := 2 } := by
  rcases decodeFrame_cases R with ⟨hlt, -⟩ | ⟨-, -, h⟩ | ⟨-, hhdr', -⟩ | ⟨B, rfl, -⟩
  · omega
  · exact h
  · exact absurd hhdr' hhdr
  · simp at hhdr

theorem decodeFrame_bad_footer {R : List Byte} (hlen : 4 ≤ R.length) (hhdr : R.take 2 = [0xFE, 0xFE])
    (hftr : R.drop (R.length - 2) ≠ [0xFE, 0x0D]) : decodeFrame R = .error { kind := .framingError, info := 3 } := by
  rcases decodeFrame_cases R with ⟨hlt, -⟩ | ⟨-, hhdr', -⟩ | ⟨-, -, -, h⟩ | ⟨B, rfl, -⟩
  · omega
  · exact absurd hhdr hhdr'
  · exact h
  · simp at hftr

/-! ### The operations in a ready block -/

section Ready

variable {s : State}

theorem exec_frEsc_fits (hs : s.flt = 0) (hfits : (escape s.ib).length ≤ s.bufSize) :
    exec .frEsc s = .next (s.setOb (escape s.ib)) :=
  (exec_frEsc s).trans (attempt_ok hs (if_neg (Nat.not_lt.2 hfits)))

theorem exec_frEsc_overflow (hs : s.flt = 0) (hover : (escape s.ib).length > s.bufSize) :
    exec .frEsc s = .next (s.setFault 4 0x20 (BitVec.ofNat 16 (escape s.ib).length)) := by
  rw [exec_frEsc, attempt_error hs (if_pos hover)]
  rfl

theorem exec_frUnesc_ok {T : List Byte} (hs : s.flt = 0) (h : unescape s.ib = .ok T) :
    exec .frUnesc s = .next (s.setOb T) :=
  (exec_frUnesc s).trans (attempt_ok hs (by rw [h, except_mapError_ok, except_map_ok]))

theorem exec_frUnesc_error {i : Nat} (hs : s.flt = 0) (h : unescape s.ib = .error i) :
    exec .frUnesc s = .next (s.setFault 3 0x21 (BitVec.ofNat 16 i)) := by
  rw [exec_frUnesc, attempt_error hs (by rw [h, except_mapError_error, except_map_error])]
  rfl

theorem exec_frEnc_fits (hs : s.flt = 0) (hfits : (encodeFrame s.ib).length ≤ s.bufSize) :
    exec .frEnc s = .next ((s.setOb (encodeFrame s.ib)).setAcc (checksum s.ib)) :=
  (exec_frEnc s).trans (attempt_ok hs (if_neg (Nat.not_lt.2 hfits)))

theorem exec_frEnc_overflow (hs : s.flt = 0) (hover : (encodeFrame s.ib).length > s.bufSize) :
    exec .frEnc s = .next (s.setFault 4 0x22 (BitVec.ofNat 16 (encodeFrame s.ib).length)) := by
  rw [exec_frEnc, attempt_error hs (if_pos hover)]
  rfl

theorem exec_frDec_ok {U : List Byte} (hs : s.flt = 0) (h : decodeFrame s.ib = .ok U) :
    exec .frDec s = .next (s.setOb U) :=
  (exec_frDec s).trans (attempt_ok hs (congrArg (Except.map s.setOb) h))

theorem exec_frDec_error {e : FaultInfo} (hs : s.flt = 0) (h : decodeFrame s.ib = .error e) :
    exec .frDec s = .next (raise 0x23 e s) :=
  (exec_frDec s).trans (attempt_error hs (congrArg (Except.map s.setOb) h))

theorem exec_bufMov_ready (hs : s.flt = 0) : exec .bufMov s = .next (s.setIb s.ob) :=
  (exec_bufMov s).trans (operate_ready hs)

theorem exec_ibTrim_ready (hs : s.flt = 0) (f l : Byte) :
    exec (.ibTrim f l) s = .next (s.setIb (trim s.ib f.toNat l.toNat)) :=
  (exec_ibTrim s f l).trans (operate_ready hs)

end Ready

/-! ### A command framed and unframed -/

/-- A command followed by its checksum passes `CS.VERIFY` (41_checksum.md rule R110). -/
theorem verifyPayload_append_checksum (C : List Byte) : verifyPayload (C ++ be16 (checksum C)) = .ok (checksum C) := by
  rw [be16, verifyPayload_append, imm16_hiByte_loByte, if_pos rfl]

/-- `IB.TRIM 00 02` strips a trailing checksum. -/
theorem trim_append_be16 (C : List Byte) (v : Half) : trim (C ++ be16 v) 0 2 = C := by
  simp [trim_eq]

/-- Sending: the frame of the command stands in both buffers. -/
theorem issueAll_frEnc_bufMov {s : State} (hs : s.flt = 0) (hfits : (encodeFrame s.ib).length ≤ s.bufSize)
    (rest : List Instr) :
    issueAll (.frEnc :: .bufMov :: rest) s =
      issueAll rest { s with ib := encodeFrame s.ib, ob := encodeFrame s.ib, acc := checksum s.ib } :=
  (issueAll_cons (exec_frEnc_fits hs hfits)).trans (issueAll_cons (exec_bufMov_ready hs))

/-- Receiving: the payload of the frame stands in both buffers. -/
theorem issueAll_frDec_bufMov {s : State} {U : List Byte} (hs : s.flt = 0) (hU : decodeFrame s.ib = .ok U)
    (rest : List Instr) :
    issueAll (.frDec :: .bufMov :: rest) s = issueAll rest { s with ib := U, ob := U } :=
  (issueAll_cons (exec_frDec_ok hs hU)).trans (issueAll_cons (exec_bufMov_ready hs))

/-- Checking: a payload that ends in its checksum verifies, and the checksum is stripped. -/
theorem issueAll_csVerify_ibTrim {s : State} {C : List Byte} (hs : s.flt = 0)
    (hib : s.ib = C ++ be16 (checksum C)) :
    issueAll [.csVerify, .ibTrim 0x00 0x02] s = .next { s with ib := C, acc := checksum C } := by
  have hverify : verifyPayload s.ib = .ok (checksum C) := hib ▸ verifyPayload_append_checksum C
  have htrim : trim s.ib 0 2 = C := hib ▸ trim_append_be16 C _
  have hready : (s.setAcc (checksum C)).flt = 0 := hs
  calc issueAll [.csVerify, .ibTrim 0x00 0x02] s
    _ = issueAll [.ibTrim 0x00 0x02] (s.setAcc (checksum C)) := issueAll_cons (exec_csVerify_ok hs hverify)
    _ = .next ((s.setAcc (checksum C)).setIb (trim s.ib 0 2)) := issueAll_cons (exec_ibTrim_ready hready _ _)
    _ = .next { s with ib := C, acc := checksum C } := by rw [htrim]; rfl

/-- Settles O42: the frame is sent, received and checked, and its payload is the command with its checksum. -/
theorem framedCommandComesBackVerified : Obligations.FramedCommandComesBackVerified := by
  refine ⟨decodeFrame_encodeFrame, fun s hs hfits => ?_⟩
  rw [issueAll_frEnc_bufMov hs hfits, issueAll_frDec_bufMov (by exact hs) (decodeFrame_encodeFrame s.ib)]
  exact issueAll_csVerify_ibTrim hs rfl

/-! ### The operations' statements -/

/-- Settles O36, by the two branches of the effect. -/
theorem frEscStuffsOrOverflows : Obligations.FrEscStuffsOrOverflows := by
  refine ⟨rfl, fun s => ?_⟩
  rw [stuffed_eq_escape]
  exact ⟨escape_length s.ib, exec_frEsc_fits, exec_frEsc_overflow⟩

/-- Settles O37, by what unescaping answers on each of the two kinds of byte sequence. -/
theorem frUnescUnstuffsOrFaults : Obligations.FrUnescUnstuffsOrFaults := by
  simp only [Obligations.FrUnescUnstuffsOrFaults, stuffed_eq_escape]
  refine ⟨rfl, fun s T hs hib => ?_, fun s A rest hs hib hrest => ?_, stuffed_or_bad⟩
  · exact exec_frUnesc_ok hs (hib ▸ unescape_escape T)
  · exact exec_frUnesc_error hs (hib ▸ unescape_escape_bad A hrest)

/-- Settles O38, by the two branches of the effect. -/
theorem frEncFramesOrOverflows : Obligations.FrEncFramesOrOverflows := by
  refine ⟨rfl, fun s => ?_⟩
  rw [framed_eq_encodeFrame]
  exact ⟨exec_frEnc_fits, exec_frEnc_overflow⟩

/-- Settles O39, by what decoding answers at each of its tests, in their order. -/
theorem frDecUnframesOrFaults : Obligations.FrDecUnframesOrFaults := by
  simp only [Obligations.FrDecUnframesOrFaults, stuffed_eq_escape]
  refine ⟨rfl, fun s hs => ⟨fun U hib => ?_, fun hlen => ?_, fun hlen hhdr => ?_, fun hlen hhdr hftr => ?_,
    fun A rest hib hrest => ?_⟩⟩
  · exact exec_frDec_ok hs (hib ▸ decodeFrame_framed_escape U)
  · exact exec_frDec_error hs (decodeFrame_short hlen)
  · exact exec_frDec_error hs (decodeFrame_bad_header hlen hhdr)
  · exact exec_frDec_error hs (decodeFrame_bad_footer hlen hhdr hftr)
  · exact exec_frDec_error hs (hib ▸ decodeFrame_framed_bad A hrest)

end Sys2Proof.Machine
end

section
/-! The event record unpacker: `EV.LOAD`, `EV.SETYEAR`, the views of a record not yet loaded, and the texts
(43_event_record.md rules R140 to R142 and R160 to R162). -/

namespace Sys2Proof.Machine

/-! ### The record loaded from bytes -/

theorem EventRecord.getElem?_eq_byte_ofBytes {S : List Byte} {k : Nat} (hk : k < 14) (hlen : k < S.length) :
    S[k]? = some ((EventRecord.ofBytes S).byte k) := by
  rw [EventRecord.byte_ofBytes S k hk, byteAt_eq_getElem?, List.getElem?_eq_getElem hlen, Option.getD_some]

theorem EventRecord.byte_ofBytes_of_length_le {S : List Byte} {k : Nat} (hk : k < 14) (hlen : S.length ≤ k) :
    (EventRecord.ofBytes S).byte k = 0 := by
  rw [EventRecord.byte_ofBytes S k hk, byteAt_eq_getElem?, List.getElem?_eq_none hlen, Option.getD_none]

/-! ### The operations in a ready block -/

theorem exec_evLoad_ready {s : State} (hs : s.flt = 0) :
    exec .evLoad s = .next (s.setEr (EventRecord.ofBytes s.ib) (BitVec.ofNat 4 (min s.ib.length 14))) :=
  (exec_evLoad s).trans (operate_ready hs)

theorem exec_evSetyear_ready {s : State} (hs : s.flt = 0) (y : Half) : exec (.evSetyear y) s = .next (s.setCy y) :=
  (exec_evSetyear s y).trans (operate_ready hs)

/-- Settles O43: the record is made from the bytes of `IB`, and its zero fill begins where they end. -/
theorem evLoadCopiesAndZeroFills : Obligations.EvLoadCopiesAndZeroFills :=
  ⟨rfl, fun s hs => ⟨EventRecord.ofBytes s.ib, exec_evLoad_ready hs, fun _ hk =>
    ⟨EventRecord.getElem?_eq_byte_ofBytes hk, EventRecord.byte_ofBytes_of_length_le hk⟩⟩⟩

theorem encode_evSetyear_imm16 (b1 b2 : Byte) : encode (.evSetyear (imm16 b1 b2)) = .three 0x31 b1 b2 := by
  rw [encode, hiByte_imm16, loByte_imm16]

/-- Settles O44: the year is the value its two operand bytes spell. -/
theorem evSetyearLoadsTheYear : Obligations.EvSetyearLoadsTheYear := by
  intro b1 b2 y hy
  obtain rfl := (eq_imm16_iff y b1 b2).2 hy.symm
  exact ⟨encode_evSetyear_imm16 b1 b2, fun s hs => exec_evSetyear_ready hs _⟩

/-! ### The texts -/

/-- The hexadecimal digits of a byte sequence, the high digit of each byte first (rule R160). -/
def hexDigits (S : List Byte) : List Nat := S.flatMap fun b => [b.toNat / 16, b.toNat % 16]

theorem hexDigits_cons (b : Byte) (S : List Byte) :
    hexDigits (b :: S) = b.toNat / 16 :: b.toNat % 16 :: hexDigits S := rfl

theorem map_hexDigit_hexDigits (S : List Byte) : (hexDigits S).map hexDigit = S.flatMap hex2 :=
  List.map_flatMap

theorem lt_of_mem_hexDigits {S : List Byte} {x : Nat} (hx : x ∈ hexDigits S) : x < 16 := by
  obtain ⟨b, -, hxb⟩ := List.mem_flatMap.1 hx
  have hb := b.isLt
  simp only [List.mem_cons, List.not_mem_nil, or_false] at hxb
  omega

/-- Read to base 16, the digits give what the bytes give to base 256. -/
theorem foldl_hexDigits (S : List Byte) (n : Nat) :
    (hexDigits S).foldl (fun n x => n * 16 + x) n = S.foldl (fun n b => n * 256 + b.toNat) n := by
  induction S generalizing n with
  | nil => rfl
  | cons b S ih =>
    have hb : (n * 16 + b.toNat / 16) * 16 + b.toNat % 16 = n * 256 + b.toNat := by omega
    rw [hexDigits_cons, List.foldl_cons, List.foldl_cons, List.foldl_cons, hb, ih]

/-- The text of an index is six digits, and their value is the index (rule R162; 10_state.md rules R28, R29). -/
theorem hex2_three_bytes_shows_number (a b c : Byte) :
    ∃ d : List Nat, d.length = 6 ∧ (∀ x ∈ d, x < 16) ∧ hex2 a ++ hex2 b ++ hex2 c = d.map hexDigit ∧
      d.foldl (fun n x => n * 16 + x) 0 =
        (BitVec.ofNat 24 (a.toNat * 65536 + b.toNat * 256 + c.toNat)).toNat := by
  refine ⟨hexDigits [a, b, c], rfl, fun _ => lt_of_mem_hexDigits, (map_hexDigit_hexDigits [a, b, c]).symm, ?_⟩
  rw [foldl_hexDigits, three_bytes_toNat]
  simp only [List.foldl_cons, List.foldl_nil]
  omega

/-- A number of two decimal digits is shown by them (rule R160). -/
theorem dec2_shows_number {n : Nat} (hn : n < 100) :
    ∃ t u, t < 10 ∧ u < 10 ∧ dec2 n = [hexDigit t, hexDigit u] ∧ 10 * t + u = n :=
  ⟨n / 10, n % 10, by omega, by omega, rfl, by omega⟩

/-- Settles O47: hours stay below 69 and minutes below 60, so two decimal digits show each; an index text spells the
three bytes of its index. -/
theorem textViewsShowTheirNumbers : Obligations.TextViewsShowTheirNumbers := by
  intro s
  have hminutes := s.minutes.isLt
  have hhh := s.hh_toNat
  have hmm := s.mm_toNat
  obtain ⟨h1, h0, hh1, hh0, hhours, hhval⟩ := dec2_shows_number (n := s.hh.toNat) (by omega)
  obtain ⟨m1, m0, hm1, hm0, hmins, hmval⟩ := dec2_shows_number (n := s.mm.toNat) (by omega)
  refine ⟨⟨h1, h0, m1, m0, hh1, hh0, hm1, hm0, ?_, hhval.trans hhh, hmval.trans hmm⟩,
    hex2_three_bytes_shows_number _ _ _, hex2_three_bytes_shows_number _ _ _⟩
  rw [State.time, hhours, hmins]
  rfl

/-! ### The views before the first load -/

theorem three_zero_bytes_number {a b c : Byte} (ha : a = 0) (hb : b = 0) (hc : c = 0) :
    BitVec.ofNat 24 (a.toNat * 65536 + b.toNat * 256 + c.toNat) = 0 := by
  subst ha hb hc
  rfl

theorem three_zero_bytes_text {a b c : Byte} (ha : a = 0) (hb : b = 0) (hc : c = 0) :
    hex2 a ++ hex2 b ++ hex2 c = List.replicate 6 '0' := by
  subst ha hb hc
  rfl

section Unloaded

variable {s : State}

theorem State.code_eq_zero (hhigh : s.codeHigh = 0) (hlow : s.codeLow = 0) : s.code = 0 := by
  rw [State.code, hhigh, hlow]
  rfl

theorem State.minutes_eq_zero (hhigh : s.minutesHigh = 0) (hlow : s.minutesLow = 0) : s.minutes = 0 := by
  rw [State.minutes, hhigh, hlow]
  rfl

theorem State.hh_eq_zero (h : s.minutes = 0) : s.hh = 0 := by
  rw [State.hh, h]
  rfl

theorem State.mm_eq_zero (h : s.minutes = 0) : s.mm = 0 := by
  rw [State.mm, h]
  rfl

theorem State.time_of_minutes_eq_zero (h : s.minutes = 0) : s.time = ['0', '0', ':', '0', '0'] := by
  rw [State.time, hh_eq_zero h, mm_eq_zero h]
  rfl

/-- `year` 0 leaves `cy` with its two low bits cleared (10_state.md rule R32). -/
theorem State.absYear_toNat_of_year_eq_zero (h : s.year = 0) : s.absYear.toNat = s.cy.toNat / 4 * 4 := by
  have hyear : s.year.toNat = 0 := congrArg BitVec.toNat h
  rw [s.absYear_toNat]
  omega

end Unloaded

/-- Settles O48. Every view but `abs_year` reads `ER` alone: a field is a run of bits of a zero byte, and a derived view
follows from the fields that its formula takes. -/
theorem viewsBeforeTheFirstLoadReadZero : Obligations.ViewsBeforeTheFirstLoadReadZero := by
  intro s her
  have hs : s = s.setEr State.reset.er s.ercnt := by rw [← her]; rfl
  rw [hs]
  have hyear : (s.setEr State.reset.er s.ercnt).year = 0 := BitVec.extractLsb'_zero
  have hminutes : (s.setEr State.reset.er s.ercnt).minutes = 0 := State.minutes_eq_zero BitVec.extractLsb'_zero rfl
  exact ⟨BitVec.extractLsb'_zero, BitVec.extractLsb'_zero, BitVec.getLsbD_zero, BitVec.getLsbD_zero, hyear,
    BitVec.extractLsb'_zero, BitVec.extractLsb'_zero, BitVec.extractLsb'_zero, BitVec.extractLsb'_zero, rfl,
    BitVec.extractLsb'_zero, BitVec.getLsbD_zero, BitVec.extractLsb'_zero, rfl, rfl, BitVec.extractLsb'_zero,
    BitVec.extractLsb'_zero, three_zero_bytes_number rfl rfl rfl, three_zero_bytes_number rfl rfl rfl,
    State.code_eq_zero BitVec.extractLsb'_zero rfl, hminutes, State.hh_eq_zero hminutes, State.mm_eq_zero hminutes,
    State.time_of_minutes_eq_zero hminutes, three_zero_bytes_text rfl rfl rfl, three_zero_bytes_text rfl rfl rfl,
    State.absYear_toNat_of_year_eq_zero hyear⟩

end Sys2Proof.Machine
end

section
/-! The bitset codec: `positions` and `pack` as inverses of each other, and the operations `BS.SETOFF`, `BS.SETLEN`,
`PL.CLR`, `PL.PUSH`, `BS.SCAN`, `BS.PACK` (44_bitset.md rules R170 to R178). -/

namespace Sys2Proof.Machine

/-! ### Bits of a buffer -/

/-- The statements' own bit test is the model's, beyond the end of the buffer too: there no bit is set. -/
theorem bitSet_iff_bitAt (B : List Byte) (i : Nat) : BitSet B i ↔ bitAt B i = true := by
  rw [BitSet, bitAt, byteAt_eq_getElem?]
  cases B[i / 8]? with
  | none => simp
  | some b => simp [BitVec.testBit_toNat]

/-- A buffer is known by its length and its bits. -/
theorem eq_of_bitAt_eq {A B : List Byte} (hlen : A.length = B.length)
    (hbit : ∀ i < 8 * B.length, bitAt A i = bitAt B i) : A = B := by
  refine List.ext_getElem hlen fun k hA hB => BitVec.eq_of_getLsbD_eq fun j hj => ?_
  have hdiv : (8 * k + j) / 8 = k := by omega
  have hmod : (8 * k + j) % 8 = j := by omega
  simpa [bitAt, byteAt_eq_getElem?, hdiv, hmod, hA, hB] using hbit (8 * k + j) (by omega)

/-! ### Scanning -/

/-- A scan is strictly ascending where every position fits in 16 bits (rule R170). -/
theorem positions_pairwise_lt (B : List Byte) {off : Nat} (hfit : off + 8 * B.length ≤ 65536) :
    (positions B off).Pairwise (fun p q => p.toNat < q.toNat) := by
  refine List.pairwise_map.2 ((List.pairwise_lt_range.filter _).imp_of_mem fun {i j} hi hj hij => ?_)
  have hi' : i < 8 * B.length := List.mem_range.1 (List.mem_of_mem_filter hi)
  have hj' : j < 8 * B.length := List.mem_range.1 (List.mem_of_mem_filter hj)
  rw [BitVec.toNat_ofNat, BitVec.toNat_ofNat]
  omega

/-! ### Packing -/

theorem inRange_iff (n off : Nat) (p : Half) :
    inRange n off p = true ↔ off ≤ p.toNat ∧ p.toNat < off + 8 * n :=
  decide_eq_true_iff

/-- Packing succeeds exactly with the buffer that has the listed bits, and only when no entry lies outside
(rule R171). -/
theorem pack_eq_ok_iff {P : List Half} {n off : Nat} {B : List Byte} :
    pack P n off = .ok B ↔ (∀ p ∈ P, inRange n off p = true) ∧ B.length = n ∧
      ∀ i < 8 * n, bitAt B i = true ↔ ∃ p ∈ P, p.toNat = i + off := by
  rcases pack_cases P n off with ⟨B', hok, hin, hlen, hbit⟩ | ⟨A, q, R, rfl, -, hq, herr⟩
  · have hlisted : ∀ i < 8 * n, bitAt B' i = true ↔ ∃ p ∈ P, p.toNat = i + off := by
      intro i hi
      rw [hbit i hi, List.any_eq_true]
      refine exists_congr fun p => and_congr_right fun hp => ?_
      have hge := ((inRange_iff n off p).1 (hin p hp)).1
      rw [decide_eq_true_iff]
      omega
    rw [hok, Except.ok.injEq]
    constructor
    · rintro rfl
      exact ⟨hin, hlen, hlisted⟩
    · rintro ⟨-, rfl, hB⟩
      exact eq_of_bitAt_eq hlen fun i hi => Bool.eq_iff_iff.2 ((hlisted i hi).trans (hB i hi).symm)
  · rw [herr]
    constructor
    · rintro ⟨⟩
    · rintro ⟨hin, -⟩
      exact absurd (hin q (by simp)) (by simp [hq])

/-- Packing succeeds when no entry lies outside (rule R171). -/
theorem exists_pack_of_inRange {P : List Half} {n off : Nat} (hin : ∀ p ∈ P, inRange n off p = true) :
    ∃ B, pack P n off = .ok B := by
  rcases pack_cases P n off with ⟨B, hB, -⟩ | ⟨A, q, R, rfl, -, hq, -⟩
  · exact ⟨B, hB⟩
  · exact absurd (hin q (by simp)) (by simp [hq])

/-- Packing fails with the first entry outside (rule R171). -/
theorem pack_first_outside {A R : List Half} {p : Half} {n off : Nat} (hA : ∀ q ∈ A, inRange n off q = true)
    (hp : inRange n off p = false) :
    pack (A ++ p :: R) n off = .error { kind := .rangeError, info := p.toNat } := by
  have hfind : (A ++ p :: R).find? (fun q => !inRange n off q) = some p :=
    List.find?_eq_some_iff_append.2 ⟨by simp [hp], A, R, rfl, by simpa using hA⟩
  rw [pack, hfind]

/-! ### The codec's laws -/

/-- Law (a) of rule R178, as sets. -/
theorem mem_positions_of_pack {P : List Half} {n off : Nat} {B : List Byte} (hfit : off + 8 * n ≤ 65536)
    (hB : pack P n off = .ok B) (p : Half) : p ∈ positions B off ↔ p ∈ P := by
  obtain ⟨hin, rfl, hbit⟩ := pack_eq_ok_iff.1 hB
  rw [mem_positions B off hfit]
  constructor
  · rintro ⟨i, hi, hset, hpi⟩
    obtain ⟨q, hq, hqi⟩ := (hbit i hi).1 hset
    rwa [BitVec.eq_of_toNat_eq (hpi.trans hqi.symm)]
  · intro hp
    obtain ⟨hge, hlt⟩ := (inRange_iff _ _ _).1 (hin p hp)
    have hi : p.toNat - off < 8 * B.length := by omega
    have hpi : p.toNat = p.toNat - off + off := by omega
    exact ⟨p.toNat - off, hi, (hbit _ hi).2 ⟨p, hp, hpi⟩, hpi⟩

/-- Law (b) of rule R178. -/
theorem pack_positions (B : List Byte) {off : Nat} (hfit : off + 8 * B.length ≤ 65536) :
    pack (positions B off) B.length off = .ok B := by
  refine pack_eq_ok_iff.2 ⟨fun p hp => ?_, rfl, fun i hi => ⟨fun hset => ?_, ?_⟩⟩
  · obtain ⟨i, hi, -, hpi⟩ := (mem_positions B off hfit p).1 hp
    rw [inRange_iff]
    omega
  · have hval : (BitVec.ofNat 16 (i + off)).toNat = i + off := Nat.mod_eq_of_lt (by omega)
    exact ⟨_, (mem_positions B off hfit _).2 ⟨i, hi, hset, hval⟩, hval⟩
  · rintro ⟨p, hp, hpi⟩
    obtain ⟨j, -, hset, hpj⟩ := (mem_positions B off hfit p).1 hp
    obtain rfl : j = i := by omega
    exact hset

/-- Settles O55, by the laws of packing and scanning and the order of a scan. -/
theorem bitsetRoundTripsBothWays : Obligations.BitsetRoundTripsBothWays := by
  refine ⟨fun S n off B hfit hB => ⟨mem_positions_of_pack hfit hB, ?_⟩, fun B off hfit => pack_positions B hfit⟩
  exact positions_pairwise_lt B (by rwa [pack_ok_length hB])

/-! ### The operations in a ready block -/

section Ready

variable {s : State}

theorem exec_bsScan_ready (hs : s.flt = 0) : exec .bsScan s = .next (s.setPl (positions s.ib s.boff.toNat)) :=
  (exec_bsScan s).trans (operate_ready hs)

theorem exec_bsPack_overflow (hs : s.flt = 0) (hover : s.blen.toNat > s.bufSize) :
    exec .bsPack s = .next (s.setFault 4 0x45 (s.blen.setWidth 16)) := by
  rw [exec_bsPack, attempt_error hs (if_pos hover), raise_eq, BitVec.ofNat_toNat]
  rfl

theorem exec_bsPack_ok {B : List Byte} (hs : s.flt = 0) (hfits : s.blen.toNat ≤ s.bufSize)
    (hB : pack s.pl s.blen.toNat s.boff.toNat = .ok B) : exec .bsPack s = .next (s.setOb B) :=
  (exec_bsPack s).trans (attempt_ok hs (by rw [if_neg (Nat.not_lt.2 hfits), hB, except_map_ok]))

theorem exec_bsPack_outside {p : Half} (hs : s.flt = 0) (hfits : s.blen.toNat ≤ s.bufSize)
    (hp : pack s.pl s.blen.toNat s.boff.toNat = .error { kind := .rangeError, info := p.toNat }) :
    exec .bsPack s = .next (s.setFault 5 0x45 p) := by
  rw [exec_bsPack, attempt_error hs (by rw [if_neg (Nat.not_lt.2 hfits), hp, except_map_error]), raise_eq,
    BitVec.ofNat_toNat, BitVec.setWidth_eq]
  rfl

/-- Without a fault, `BS.PACK` wrote a packed buffer to `OB`. -/
theorem exists_pack_of_exec_bsPack {t : State} (hs : s.flt = 0) (h : exec .bsPack s = .next t) (ht : t.flt = 0) :
    ∃ B, pack s.pl s.blen.toNat s.boff.toNat = .ok B ∧ t = s.setOb B := by
  rcases attempt_cases ((exec_bsPack s).symm.trans h) with ⟨hne, -⟩ | ⟨-, hok⟩ | ⟨-, e, -, rfl⟩
  · exact absurd hs hne
  · split at hok
    · cases hok
    · obtain ⟨B, hB, rfl⟩ := except_map_eq_ok.1 hok
      exact ⟨B, hB, rfl⟩
  · exact absurd ht e.kind.code_ne_zero

end Ready

/-! ### The operations' statements -/

/-- Settles O53: a legal capacity is at most 8160 bytes, so every position fits in 16 bits. -/
theorem bsScanListsTheSetBits : Obligations.BsScanListsTheSetBits := by
  refine ⟨rfl, fun s hs hwf hib => ?_⟩
  have hcap : 100 ≤ s.bufSize ∧ s.bufSize ≤ 8160 := of_decide_eq_true hwf
  have hboff := s.boff.isLt
  have hfit : s.boff.toNat + 8 * s.ib.length ≤ 65536 := by omega
  refine ⟨_, exec_bsScan_ready hs, fun p => ?_, positions_pairwise_lt s.ib hfit⟩
  simp only [mem_positions s.ib _ hfit, bitSet_iff_bitAt]

/-- Settles O54, by the two tests of the effect: the length against the capacity, then the entries in list order. -/
theorem bsPackSetsTheListedBitsOrFaults : Obligations.BsPackSetsTheListedBitsOrFaults := by
  refine ⟨rfl, fun s inside hs hinside => ?_⟩
  have hrange : ∀ p, inside p ↔ inRange s.blen.toNat s.boff.toNat p = true :=
    fun p => (hinside p).trans (inRange_iff _ _ _).symm
  simp only [hrange, bitSet_iff_bitAt]
  refine ⟨exec_bsPack_overflow hs, fun hfits hin => ?_, fun A p rest hfits hpl hA hp => ?_⟩
  · obtain ⟨B, hB⟩ := exists_pack_of_inRange hin
    obtain ⟨-, hlen, hbit⟩ := pack_eq_ok_iff.1 hB
    exact ⟨B, exec_bsPack_ok hs hfits hB, hlen, hbit⟩
  · exact exec_bsPack_outside hs hfits (hpl ▸ pack_first_outside hA (Bool.eq_false_iff.2 hp))

/-- Settles O56: the packed buffer has at most 255 bytes, so every position fits in 16 bits. -/
theorem packMoveScanSortsTheList : Obligations.PackMoveScanSortsTheList := by
  intro s t hs _ hexec ht
  obtain ⟨B, hB, rfl⟩ := exists_pack_of_exec_bsPack hs hexec ht
  have hboff := s.boff.isLt
  have hblen := s.blen.isLt
  have hlen := pack_ok_length hB
  refine ⟨positions B s.boff.toNat, ?_, mem_positions_of_pack (by omega) hB, positions_pairwise_lt B (by omega)⟩
  rw [issueAll_cons hexec, issueAll_cons (exec_bufMov_ready ht)]
  exact issueAll_cons (exec_bsScan_ready ht)

/-- Settles O49: the effect in a ready block. -/
theorem bsSetoffLoadsTheOffset : Obligations.BsSetoffLoadsTheOffset :=
  fun v s => ⟨rfl, fun hs => (exec_bsSetoff s v).trans (operate_ready hs)⟩

/-- Settles O50: the effect in a ready block. -/
theorem bsSetlenLoadsTheLength : Obligations.BsSetlenLoadsTheLength :=
  fun v s => ⟨rfl, fun hs => (exec_bsSetlen s v).trans (operate_ready hs)⟩

/-- Settles O51: the effect in a ready block. -/
theorem plClrEmptiesTheList : Obligations.PlClrEmptiesTheList :=
  ⟨rfl, fun s hs => (exec_plClr s).trans (operate_ready hs)⟩

theorem encode_plPush_imm16 (b1 b2 : Byte) : encode (.plPush (imm16 b1 b2)) = .three 0x43 b1 b2 := by
  rw [encode, hiByte_imm16, loByte_imm16]

/-- Settles O52, by the two branches of the effect: a full list raises BufferOverflow, any other takes the position. -/
theorem plPushAppendsOrOverflows : Obligations.PlPushAppendsOrOverflows := by
  intro b1 b2 p hp
  obtain rfl := (eq_imm16_iff p b1 b2).2 hp.symm
  refine ⟨encode_plPush_imm16 b1 b2, fun s => ⟨fun hs hfree => ?_, fun hs hfull => ?_⟩⟩
  · exact (exec_plPush s _).trans (attempt_ok hs (if_neg hfree))
  · rw [exec_plPush, attempt_error hs (if_pos hfull), hfull]
    rfl

end Sys2Proof.Machine
end

section
/-! The host's contract: the retry loop of the transaction client and the validation of a response
(45_host_protocol.md rules R192 to R195 and R207). -/

namespace Sys2Proof.Machine.HostSide

/-! ### The validation of a response -/

section Validate
variable {command raw : List Byte}

/-- A frame that fails the envelope's tests surfaces as the host's FramingError (rule R193). -/
theorem validate_framingError {info : Nat}
    (hdec : decodeFrame raw = .error { kind := .framingError, info := info }) :
    validate command raw = .error (.framingError info) := by
  rw [validate, hdec]
  rfl

/-- The checksum is not looked at once the status or the echo has failed (rule R195). -/
theorem validate_checkStatus_error {output : List Byte} {e : HostError} (hdec : decodeFrame raw = .ok output)
    (hstatus : checkStatus command output = .error e) : validate command raw = .error e := by
  simp only [validate, hdec, hstatus]

end Validate

/-- Without the error marker in front, the first byte must echo the command's opcode byte (rule R194). -/
theorem checkStatus_echo (opcode : Byte) {first : Byte} (hmarker : first ≠ 0xEF) (arguments payload : List Byte) :
    checkStatus (opcode :: arguments) (first :: payload) =
      if first = opcode then .ok () else .error .protocolMismatch := by
  unfold checkStatus
  split
  next hempty => cases hempty
  next hmarked => exact absurd (List.cons.inj hmarked).1 hmarker
  next hmarked => exact absurd (List.cons.inj hmarked).1 hmarker
  next hempty _ => cases hempty
  next hcommand houtput =>
    cases hcommand
    cases houtput
    rfl

/-- Settles O58: the frame is decoded to its bytes, and the echo test fails before the checksum is reached. -/
theorem mismatchedEchoIsNeverAccepted : Obligations.MismatchedEchoIsNeverAccepted := by
  intro opcode first arguments payload hmarker hecho
  have hdec : decodeFrame ([0xFE, 0xFE] ++ stuffed (first :: payload) ++ [0xFE, 0x0D]) = .ok (first :: payload) :=
    stuffed_eq_escape (first :: payload) ▸ decodeFrame_framed_escape (first :: payload)
  exact validate_checkStatus_error hdec ((checkStatus_echo opcode hmarker arguments payload).trans (if_neg hecho))

/-! ### The retry loop -/

/-- A busy response with attempts left is retried after a delay that grows with the attempt's number (rule R192). -/
theorem retryLoop_busy (delay attempt : Nat) {left : Nat} (hleft : left ≠ 0) (more : List Reply) :
    retryLoop delay (left + 1) attempt (.response busySentinel :: more) =
      ((retryLoop delay left (attempt + 1) more).1,
        delay * attempt :: (retryLoop delay left (attempt + 1) more).2) :=
  if_pos ⟨rfl, hleft⟩

/-- At the last attempt any response goes to validation, a busy one too, and no sleep follows (rule R192). -/
theorem retryLoop_last (delay attempt : Nat) (bytes : List Byte) (more : List Reply) :
    retryLoop delay 1 attempt (.response bytes :: more) = (.ok (readResponse bytes), []) :=
  if_neg fun hretry => hretry.2 rfl

/-- Busy responses at every attempt: the sentinel itself goes to validation, and every attempt but the last was
followed by its delay (rule R192). -/
theorem retryLoop_all_busy (delay n attempt : Nat) (more : List Reply) :
    retryLoop delay (n + 1) attempt (List.replicate (n + 1) (.response busySentinel) ++ more) =
      (.ok busySentinel, (List.range' attempt n).map (delay * ·)) := by
  induction n generalizing attempt with
  | zero => exact retryLoop_last delay attempt busySentinel more
  | succ n ih =>
    rw [List.replicate_succ, List.cons_append, retryLoop_busy delay attempt n.succ_ne_zero, ih]
    rfl

/-- The sentinel begins `10 42`, which is not a frame's header (rule R193). -/
theorem validate_busySentinel (command : List Byte) :
    validate command busySentinel = .error (.framingError 2) :=
  validate_framingError (decodeFrame_bad_header (by decide) (by decide))

/-- Settles O57: all three attempts meet the sentinel, and its validation fails at the header. -/
theorem threeBusyResponsesSurfaceAFramingError : Obligations.ThreeBusyResponsesSurfaceAFramingError := by
  intro command more
  simp only [execute, retryLoop_all_busy 2 2 1 more, validate_busySentinel]
  rfl

end Sys2Proof.Machine.HostSide
end

section
/-! A halted block: it ignores every input but a legal `RST` and the reset input (60_exceptions.md rules R233, R235). -/

namespace Sys2Proof.Machine

/-- The inputs that let a halted block go on. -/
theorem Input.resets_iff {x : Input} : x.resets = true ↔ x = .resetLine ∨ x = .word (.one 0x01) := by
  cases x <;> simp [Input.resets]

/-- The word `01` is `RST`, which runs whatever the fault registers hold. -/
theorem issue_rst (s : State) : issue (.one 0x01) s = .next s.resetBlock := rfl

/-- A halted block ignores a legal word and an illegal one, by the halt check of its operation or of IllegalOp. -/
theorem issue_halted {w : OpWord} {s : State} (hs : s.flt ≠ 0) (hw : w ≠ .one 0x01) : issue w s = .next s := by
  cases hd : decode w with
  | ok i =>
    have hi : i ≠ .rst := by
      rintro rfl
      exact hw (encode_of_decode hd).symm
    rw [issue_ok s hd, exec_halted hs hi]
  | error e => rw [issue_error s hd, takeIllegalOp_halted w hs]

/-- Without a reset first at the port, a step of a halted block at most takes an input away. -/
theorem step_halted {s : State} (hs : s.flt ≠ 0) (hx : ∀ x ∈ s.inputs.head?, x.resets = false) :
    step s = .next (s.setInputs s.inputs.tail) := by
  rcases hin : s.inputs with _ | ⟨x, rest⟩
  · rw [step_idle hin, List.tail_nil, ← hin]
    rfl
  · have hres : x.resets = false := hx x (by simp [hin])
    cases x with
    | word w =>
      have hw : w ≠ .one 0x01 := by simpa [Input.resets] using hres
      exact (step_word hin).trans (issue_halted hs hw)
    | resetLine => cases hres

/-- A reset first at the port resets the block in any state. -/
theorem step_of_resets {s : State} {x : Input} {rest : List Input} (hin : s.inputs = x :: rest)
    (hx : x.resets = true) : step s = .next (State.resetWith s.params rest) := by
  rcases Input.resets_iff.1 hx with rfl | rfl
  · exact step_resetLine hin
  · exact (step_word hin).trans (issue_rst _)

/-- Everything a step of a halted block can do. -/
theorem step_halted_cases {s t : State} (hs : s.flt ≠ 0) (h : step s = .next t) :
    (∃ x rest, s.inputs = x :: rest ∧ x.resets = true ∧ t = State.resetWith s.params rest) ∨
      t = s.setInputs s.inputs.tail := by
  by_cases hx : ∀ x ∈ s.inputs.head?, x.resets = false
  · rw [step_halted hs hx] at h
    cases h
    exact .inr rfl
  · push Not at hx
    obtain ⟨x, hhead, hres⟩ := hx
    obtain ⟨rest, hin⟩ := List.head?_eq_some_iff.1 hhead
    have hres : x.resets = true := by simpa using hres
    rw [step_of_resets hin hres] at h
    cases h
    exact .inl ⟨x, rest, hin, hres, rfl⟩

/-- Settles O12, by induction on the number of steps: each takes one input away. -/
theorem haltedRunKeepsTheFirstFault : Obligations.HaltedRunKeepsTheFirstFault := by
  intro k
  induction k with
  | zero => exact fun s _ _ => core_run_zero s
  | succ k ih =>
    intro s hs hinputs
    have hhead : ∀ x ∈ s.inputs.head?, x.resets = false := fun x hx =>
      hinputs x (List.mem_of_mem_head? (by rwa [List.head?_take, if_neg k.succ_ne_zero]))
    have htail : ∀ x ∈ s.inputs.tail.take k, x.resets = false := fun x hx =>
      hinputs x (List.mem_of_mem_drop (i := 1) (by rwa [List.drop_take, List.drop_one]))
    calc Sys2Proof.core.run (k + 1) s
      _ = Sys2Proof.core.run k (s.setInputs s.inputs.tail) := core_run_succ k (step_halted hs hhead)
      _ = .next (s.setInputs (s.inputs.tail.drop k)) := ih _ hs htail
      _ = .next (s.setInputs (s.inputs.drop (k + 1))) := by rw [List.drop_tail]

/-- Settles O11, by the two lemmas about a word at a halted block. -/
theorem haltedBlockIgnoresEveryWordButRst : Obligations.HaltedBlockIgnoresEveryWordButRst := by
  refine fun s w rest hs hin => ⟨fun hw => ?_, ?_⟩
  · exact (step_word hin).trans (issue_halted hs hw)
  · rintro rfl
    exact (step_word hin).trans (issue_rst _)

/-- Settles O13: a step that does not reset keeps `flt`. -/
theorem onlyResetLeavesTheHaltedState : Obligations.OnlyResetLeavesTheHaltedState := by
  intro s t hs h ht
  rcases step_halted_cases hs h with ⟨x, rest, hin, hres, rfl⟩ | rfl
  · exact ⟨x, rest, hin, Input.resets_iff.1 hres, rfl⟩
  · exact absurd ht hs

end Sys2Proof.Machine
end

section
/-! Legal words: they are the ones the decoder takes, and their opcode byte fixes their format (30_encoding.md rules R66,
R67). -/

namespace Sys2Proof

theorem decode_of_legal {w : OpWord} (h : w.legal = true) : ∃ i, decode w = .ok i :=
  (decoderFollowsTheOpcodeTable.1 w).2 h

theorem decode_of_illegal {w : OpWord} (h : w.legal = false) : ∃ e, decode w = .error e := by
  cases hd : decode w with
  | ok i => rw [(decoderFollowsTheOpcodeTable.1 w).1 ⟨i, hd⟩] at h; cases h
  | error e => exact ⟨e, rfl⟩

/-- `w` is a word of the format with the opcode byte `op` (30_encoding.md rules R61 to R63). -/
def OpWord.HasForm (op : Byte) : Format → OpWord → Prop
  | .z, w => w = .one op
  | .b, w => ∃ b0, w = .two op b0
  | .h, w => ∃ b0 b1, w = .three op b0 b1

theorem OpWord.hasForm (w : OpWord) : OpWord.HasForm w.opcode w.format w := by
  cases w with
  | one op => exact rfl
  | two op b0 => exact ⟨b0, rfl⟩
  | three op b0 b1 => exact ⟨b0, b1, rfl⟩

/-- The opcode byte of an operation fixes its word but for the operand bytes (30_encoding.md rule R66). -/
theorem encode_hasForm {i : Instr} {op : Byte} {f : Format} (hop : (encode i).opcode = op)
    (hf : formatOf op = some f) : OpWord.HasForm op f (encode i) := by
  subst hop
  obtain rfl : (encode i).format = f := Option.some.inj ((formatOf_encode i).symm.trans hf)
  exact (encode i).hasForm

end Sys2Proof
end

section
/-! Fault entry: which operation raises which fault in which state, written as one relation (60_exceptions.md rules R220
to R225), and every operation but `RST` as a completion that keeps the fault registers or one of these faults. -/

namespace Sys2Proof.Machine

/-! ### The table of causes -/

/-- The lengths an operation can find above the capacity, with its opcode byte (60_exceptions.md rule R224). -/
def State.lengthsNeeded (s : State) : List (Byte × Nat) :=
  [(0x03, s.ib.length + 1), (0x13, s.ib.length + 2), (0x20, (escape s.ib).length), (0x22, (encodeFrame s.ib).length),
    (0x43, s.pl.length + 1), (0x45, s.blen.toNat)]

/-- `s` shows a cause for the operation with the opcode byte `op` to raise the fault (60_exceptions.md rules R221 to
R225). `exec_completesOrFaults` ties it to the operations. -/
inductive State.Raises (s : State) : Byte → FaultInfo → Prop
  | shortFrame (hlen : s.ib.length < 4) : s.Raises 0x23 { kind := .framingError, info := 1 }
  | badHeader (hlen : 4 ≤ s.ib.length) (hhdr : s.ib.take 2 ≠ [0xFE, 0xFE]) :
    s.Raises 0x23 { kind := .framingError, info := 2 }
  | badFooter (hlen : 4 ≤ s.ib.length) (hhdr : s.ib.take 2 = [0xFE, 0xFE])
    (hftr : s.ib.drop (s.ib.length - 2) ≠ [0xFE, 0x0D]) : s.Raises 0x23 { kind := .framingError, info := 3 }
  | badChecksum {c : Half} (hc : c = checksum (s.ib.take (s.ib.length - 2)))
    (hne : s.ib.drop (s.ib.length - 2) ≠ be16 c) : s.Raises 0x14 { kind := .checksumError, info := c.toNat }
  | badEscape {op : Byte} {i : Nat} (hop : op = 0x21 ∨ op = 0x23) (hesc : s.ib[i]? = some 0xFE)
    (hnext : s.ib[i + 1]? ≠ some 0xF0) : s.Raises op { kind := .escapeError, info := i }
  | overflow {op : Byte} {n : Nat} (hn : (op, n) ∈ s.lengthsNeeded) (hover : s.bufSize < n) :
    s.Raises op { kind := .bufferOverflow, info := n }
  | outOfRange {p : Half} (hp : p ∈ s.pl) (hout : inRange s.blen.toNat s.boff.toNat p = false) :
    s.Raises 0x45 { kind := .rangeError, info := p.toNat }

/-- The column "raised by" of 60_exceptions.md rule R220 lists every operation of the relation. -/
theorem State.Raises.mem_raisers {s : State} {op : Byte} {e : FaultInfo} (h : s.Raises op e) : op ∈ e.kind.raisers := by
  cases h with
  | badEscape hop => rcases hop with rfl | rfl <;> simp [FaultKind.raisers]
  | overflow hn =>
    have hops : ∀ q ∈ s.lengthsNeeded, q.1 ∈ FaultKind.raisers .bufferOverflow := by
      simp [State.lengthsNeeded, FaultKind.raisers]
    exact hops _ hn
  | _ => exact .head _

/-! ### The faults of the operations' helpers, by the bytes that cause them -/

theorem checksumError_of_verifyPayload {S : List Byte} {e : FaultInfo} (h : verifyPayload S = .error e) :
    ∃ c, e = { kind := .checksumError, info := c.toNat } ∧ c = checksum (S.take (S.length - 2)) ∧
      S.drop (S.length - 2) ≠ be16 c := by
  rcases verifyPayload_cases S with ⟨hlen, h'⟩ | ⟨C, hi, lo, -, -, h'⟩ | ⟨C, hi, lo, rfl, hne, h'⟩ <;>
    rw [h'] at h <;> cases h
  · refine ⟨0x147A, rfl, ?_, fun heq => ?_⟩
    · rw [show S.length - 2 = 0 by omega]
      rfl
    · have := congrArg List.length heq
      simp at this
      omega
  · refine ⟨checksum C, rfl, by simp, fun heq => hne ?_⟩
    obtain ⟨rfl, rfl⟩ : hi = hiByte (checksum C) ∧ lo = loByte (checksum C) := by simpa [be16] using heq
    exact (imm16_hiByte_loByte _).symm

/-- The index of an escape fault is that of an `FE` which `F0` does not follow. -/
theorem getElem?_of_unescape_error {S : List Byte} {i : Nat} (h : unescape S = .error i) :
    S[i]? = some 0xFE ∧ S[i + 1]? ≠ some 0xF0 := by
  rcases unescape_cases S with ⟨T, -, h'⟩ | ⟨A, R, rfl, hR, h'⟩ <;> rw [h'] at h <;> cases h
  rw [List.head?_eq_getElem?] at hR
  simpa [List.getElem?_append_right, Config.esc, Config.escSub] using hR

/-- In a frame the index is moved by the header, and the footer begins with no `F0`. -/
theorem getElem?_of_unescape_body_error {B : List Byte} {i : Nat} (h : unescape B = .error i) :
    ([0xFE, 0xFE] ++ B ++ [0xFE, 0x0D])[i + 2]? = some 0xFE ∧
      ([0xFE, 0xFE] ++ B ++ [0xFE, 0x0D])[i + 2 + 1]? ≠ some 0xF0 := by
  obtain ⟨hesc, hnext⟩ := getElem?_of_unescape_error h
  obtain ⟨hi, -⟩ := List.getElem?_eq_some_iff.1 hesc
  have hfirst : (B ++ [0xFE, 0x0D])[i]? = some 0xFE := by rwa [List.getElem?_append_left hi]
  have hsecond : (B ++ [0xFE, 0x0D])[i + 1]? ≠ some 0xF0 := by
    rcases Nat.lt_or_eq_of_le (Nat.succ_le_of_lt hi) with hlt | heq
    · rwa [List.getElem?_append_left hlt]
    · rw [← Nat.succ_eq_add_one, heq]
      simp
  simpa using ⟨hfirst, hsecond⟩

theorem raises_of_decodeFrame {s : State} {e : FaultInfo} (h : decodeFrame s.ib = .error e) : s.Raises 0x23 e := by
  rcases decodeFrame_cases s.ib with ⟨hlen, h'⟩ | ⟨hlen, hhdr, h'⟩ | ⟨hlen, hhdr, hftr, h'⟩ | ⟨B, hB, h'⟩ <;>
    rw [h'] at h
  · cases h; exact .shortFrame hlen
  · cases h; exact .badHeader hlen hhdr
  · cases h; exact .badFooter hlen hhdr hftr
  · obtain ⟨i, hi, rfl⟩ := except_mapError_eq_error.1 h
    obtain ⟨hesc, hnext⟩ := getElem?_of_unescape_body_error hi
    rw [← hB] at hesc hnext
    exact .badEscape (.inr rfl) hesc hnext

theorem raises_of_pack {s : State} {e : FaultInfo} (h : pack s.pl s.blen.toNat s.boff.toNat = .error e) :
    s.Raises 0x45 e := by
  rcases pack_cases s.pl s.blen.toNat s.boff.toNat with ⟨B, h', -⟩ | ⟨A, p, R, hpl, -, hp, h'⟩ <;> rw [h'] at h <;>
    cases h
  exact .outOfRange (by simp [hpl]) hp

/-! ### What an operation can do -/

/-- `t` holds the fault registers as `s` holds them. -/
def KeepsFault (s t : State) : Prop := t.flt = s.flt ∧ t.fop = s.fop ∧ t.finfo = s.finfo

theorem KeepsFault.refl (s : State) : KeepsFault s s := ⟨rfl, rfl, rfl⟩

/-- The operation completes with the fault registers as they were, or it raises a fault of the table. -/
def CompletesOrFaults (op : Byte) (s t : State) : Prop :=
  KeepsFault s t ∨ ∃ e, s.Raises op e ∧ t = raise op e s

section Frames

variable {o : Host.Outcome State Fault Refusal} {op : Byte} {s t : State}

theorem operate_completes {f : State → State} (ho : o = operate s f) (h : o = .next t) (hf : KeepsFault s (f s)) :
    CompletesOrFaults op s t :=
  .inl (operate_preserves ho h (.refl s) hf)

theorem attempt_completesOrFaults {f : State → Except FaultInfo State} (ho : o = attempt op s f) (h : o = .next t)
    (hf : Yields (KeepsFault s) (s.Raises op) (f s)) : CompletesOrFaults op s t := by
  subst ho
  rcases attempt_cases h with ⟨-, rfl⟩ | ⟨-, hu⟩ | ⟨-, e, he, rfl⟩
  · exact .inl (.refl t)
  · rw [hu] at hf
    cases hf with
    | ok ht => exact .inl ht
  · rw [he] at hf
    cases hf with
    | error hraises => exact .inr ⟨e, hraises, rfl⟩

end Frames

/-- One case for each operation: no effect writes a fault register, and each fault is in the table of causes. -/
theorem exec_completesOrFaults {i : Instr} {s t : State} (hi : i ≠ .rst) (h : exec i s = .next t) :
    CompletesOrFaults (encode i).opcode s t := by
  have hs : KeepsFault s s := .refl s
  have needs {n : Nat} (hn : ((encode i).opcode, n) ∈ s.lengthsNeeded) (hover : s.bufSize < n) :
      Yields (KeepsFault s) (s.Raises (encode i).opcode) (.error { kind := .bufferOverflow, info := n }) :=
    .error (.overflow hn hover)
  cases i with
  | nop => exact operate_completes (exec_nop s) h hs
  | rst => exact absurd rfl hi
  | ibClr => exact operate_completes (exec_ibClr s) h hs
  | ibPush v =>
    exact attempt_completesOrFaults (exec_ibPush s v) h
      (.ite (fun hc => needs (.head _) (by omega)) (fun _ => .ok hs))
  | bufMov => exact operate_completes (exec_bufMov s) h hs
  | ibTrim f l => exact operate_completes (exec_ibTrim s f l) h hs
  | csInit => exact operate_completes (exec_csInit s) h hs
  | csStep v => exact operate_completes (exec_csStep s v) h hs
  | csBuf => exact operate_completes (exec_csBuf s) h hs
  | csAppend =>
    exact attempt_completesOrFaults (exec_csAppend s) h
      (.ite (fun hc => needs (by simp [State.lengthsNeeded, encode, OpWord.opcode]) hc) (fun _ => .ok hs))
  | csVerify =>
    refine attempt_completesOrFaults (exec_csVerify s) h (.map (fun e he => ?_) (fun _ _ => hs))
    obtain ⟨c, rfl, hc, hne⟩ := checksumError_of_verifyPayload he
    exact .badChecksum hc hne
  | frEsc =>
    exact attempt_completesOrFaults (exec_frEsc s) h
      (.ite (fun hc => needs (by simp [State.lengthsNeeded, encode, OpWord.opcode]) hc) (fun _ => .ok hs))
  | frUnesc =>
    refine attempt_completesOrFaults (exec_frUnesc s) h (.map (fun e he => ?_) (fun _ _ => hs))
    obtain ⟨i, hi, rfl⟩ := except_mapError_eq_error.1 he
    obtain ⟨hesc, hnext⟩ := getElem?_of_unescape_error hi
    exact .badEscape (.inl rfl) hesc hnext
  | frEnc =>
    exact attempt_completesOrFaults (exec_frEnc s) h
      (.ite (fun hc => needs (by simp [State.lengthsNeeded, encode, OpWord.opcode]) hc) (fun _ => .ok hs))
  | frDec =>
    exact attempt_completesOrFaults (exec_frDec s) h (.map (fun _ he => raises_of_decodeFrame he) (fun _ _ => hs))
  | evLoad => exact operate_completes (exec_evLoad s) h hs
  | evSetyear y => exact operate_completes (exec_evSetyear s y) h hs
  | bsSetoff v => exact operate_completes (exec_bsSetoff s v) h hs
  | bsSetlen v => exact operate_completes (exec_bsSetlen s v) h hs
  | plClr => exact operate_completes (exec_plClr s) h hs
  | plPush p =>
    refine attempt_completesOrFaults (exec_plPush s p) h (.ite (fun hc => needs ?_ ?_) (fun _ => .ok hs))
    · simp [State.lengthsNeeded, encode, OpWord.opcode]
    · rw [hc, State.plSize, Config.Params.plSize, State.bufSize]
      omega
  | bsScan => exact operate_completes (exec_bsScan s) h hs
  | bsPack =>
    exact attempt_completesOrFaults (exec_bsPack s) h
      (.ite (fun hc => needs (by simp [State.lengthsNeeded, encode, OpWord.opcode]) hc)
        (fun _ => .map (fun _ he => raises_of_pack he) (fun _ _ => hs)))

/-- Everything an operation can do in a ready block: complete, or enter one fault of the table of causes. -/
theorem exec_ready_cases {i : Instr} {s t : State} (hs : s.flt = 0) (h : exec i s = .next t) :
    t.flt = 0 ∨ ∃ e, s.Raises (encode i).opcode e ∧ t = raise (encode i).opcode e s := by
  by_cases hi : i = .rst
  · subst hi
    cases h
    exact .inl rfl
  · rcases exec_completesOrFaults hi h with ⟨hflt, -⟩ | hfault
    · exact .inl (hflt.trans hs)
    · exact .inr hfault

/-! ### A held fault is explained by the buffers -/

/-- The needed length fits in `finfo` (60_exceptions.md rule R224): at most each of `BUF_SIZE` + 2 bytes escaped between
header and footer, or `PL_SIZE` + 1 entries. -/
theorem lengthsNeeded_lt {s : State} (hs : s.Wf) {op : Byte} {n : Nat} (hn : (op, n) ∈ s.lengthsNeeded) :
    n < 65536 := by
  obtain ⟨hparams, ⟨hib, -, hpl⟩, -, -⟩ := hs
  have hcap : 100 ≤ s.bufSize ∧ s.bufSize ≤ 8160 := of_decide_eq_true hparams
  have hpl : s.pl.length ≤ 8 * s.bufSize := hpl
  have hblen := s.blen.isLt
  have hescape (S : List Byte) : (escape S).length ≤ 2 * S.length := by
    have := S.count_le_length (a := Config.esc)
    rw [escape_length]
    omega
  have hframe : (encodeFrame s.ib).length ≤ 2 * s.ib.length + 8 := by
    have := hescape (s.ib ++ be16 (checksum s.ib))
    simp only [encodeFrame, Config.hdr, Config.ftr, List.length_append, be16_length, List.length_cons,
      List.length_nil] at this ⊢
    omega
  have hraw := hescape s.ib
  simp only [State.lengthsNeeded, List.mem_cons, Prod.mk.injEq, List.not_mem_nil, or_false] at hn
  omega

/-- Fault entry leaves the buffers, so they show the cause that the fault registers now record. -/
theorem State.Raises.faultExplained {s : State} {op : Byte} {e : FaultInfo} (hs : s.Wf) (h : s.Raises op e) :
    (raise op e s).FaultExplained := by
  rw [raise_eq]
  cases h with
  | shortFrame hlen => simp [FaultExplained, FaultKind.code, hlen]
  | badHeader hlen hhdr => simpa [FaultExplained, FaultKind.code, hlen] using hhdr
  | badFooter hlen hhdr hftr => simpa [FaultExplained, FaultKind.code, hlen, hhdr] using hftr
  | badChecksum hc hne => simp [FaultExplained, FaultKind.code, ← hc, hne]
  | @badEscape op i hop hesc hnext =>
    obtain ⟨hparams, ⟨hib, -, -⟩, -, -⟩ := hs
    have hcap : 100 ≤ s.bufSize ∧ s.bufSize ≤ 8160 := of_decide_eq_true hparams
    obtain ⟨hi, -⟩ := List.getElem?_eq_some_iff.1 hesc
    have hinfo : i % 65536 = i := Nat.mod_eq_of_lt (by omega)
    simpa [FaultExplained, FaultKind.code, hinfo, hesc] using hnext
  | @overflow op n hn hover =>
    have hinfo : n % 65536 = n := Nat.mod_eq_of_lt (lengthsNeeded_lt hs hn)
    simp [FaultExplained, FaultKind.code, hinfo, hover]
  | outOfRange hp hout => simp [FaultExplained, FaultKind.code, hp, hout]

theorem exec_ready_faultExplained {i : Instr} {s t : State} (hwf : s.Wf) (hs : s.flt = 0) (h : exec i s = .next t) :
    t.FaultExplained := by
  rcases exec_ready_cases hs h with ht | ⟨e, hraises, rfl⟩
  · exact State.Ready.faultExplained ht
  · exact hraises.faultExplained hwf

/-- Nothing is asked of the buffers for IllegalOp, whose cause is the word. -/
theorem takeIllegalOp_faultExplained {w : OpWord} {s t : State} (hs : s.flt = 0) (h : takeIllegalOp w s = .next t) :
    t.FaultExplained := by
  rw [takeIllegalOp_ready w hs] at h
  cases h
  simp [State.FaultExplained]

/-- Settles O15: a halted block keeps its buffers with its fault, and a ready one shows the cause of a new fault. -/
theorem stepKeepsHeldFaultExplained : Obligations.StepKeepsHeldFaultExplained := by
  intro s t hwf hexplained h
  by_cases hs : s.flt = 0
  · rcases step_cases h with ⟨-, rfl⟩ | ⟨w, rest, -, hw⟩ | ⟨rest, -, rfl⟩
    · exact hexplained
    · rcases issue_cases hw with ⟨i, -, hi⟩ | hill
      · exact exec_ready_faultExplained (hwf.setInputs rest) hs hi
      · exact takeIllegalOp_faultExplained (s := s.setInputs rest) hs hill
    · exact State.Ready.faultExplained rfl
  · rcases step_halted_cases hs h with ⟨x, rest, -, -, rfl⟩ | rfl
    · exact State.Ready.faultExplained rfl
    · exact hexplained

/-! ### Illegal words, precise faults, and which word raises which fault -/

/-- A word of no row raises IllegalOp in a ready block. -/
theorem issue_illegal {w : OpWord} {s : State} (hs : s.flt = 0) (hw : w.legal = false) :
    issue w s = .next (s.setFault 6 w.opcode (BitVec.ofNat 16 w.length)) := by
  obtain ⟨e, hd⟩ := decode_of_illegal hw
  rw [issue_error s hd, takeIllegalOp_ready w hs]

/-- Settles O7: the decoder rejects a word that no row accepts. -/
theorem illegalWordRaisesIllegalOp : Obligations.IllegalWordRaisesIllegalOp := by
  intro s w rest hs hin hw
  exact (step_word hin).trans (issue_illegal (by exact hs) hw)

/-- Settles O18: an operation that halts a ready block did a fault entry. -/
theorem faultEntryWritesOnlyTheFaultRegisters : Obligations.FaultEntryWritesOnlyTheFaultRegisters := by
  intro i s t hs h ht
  rcases exec_ready_cases hs h with hready | ⟨e, -, rfl⟩
  · exact absurd hready ht
  · rfl

/-- The column "raised by" lists an operation at every fault it raises in a ready block (60_exceptions.md rule R220). -/
theorem exec_ready_flt {i : Instr} {s t : State} (hs : s.flt = 0) (h : exec i s = .next t) :
    t.flt = 0 ∨ ∃ kind : FaultKind, t.flt = kind.code ∧ (encode i).opcode ∈ kind.raisers := by
  rcases exec_ready_cases hs h with ht | ⟨e, hraises, rfl⟩
  · exact .inl ht
  · exact .inr ⟨e.kind, rfl, hraises.mem_raisers⟩

/-- Settles O19: an illegal word raises IllegalOp; the opcode byte of a legal one is in the column "raised by" of the
fault raised, and fixes the word but for its operand. -/
theorem eachFaultCodeHasItsRaisers : Obligations.EachFaultCodeHasItsRaisers := by
  intro s t w rest hs hin h
  rw [step_word hin] at h
  cases hlegal : w.legal with
  | false =>
    rw [issue_illegal (by exact hs) hlegal] at h
    cases h
    simp
  | true =>
    obtain ⟨i, hd⟩ := decode_of_legal hlegal
    obtain rfl := encode_of_decode hd
    rw [issue_ok _ hd] at h
    rcases exec_ready_flt (by exact hs) h with ht | ⟨kind, ht, hop⟩
    · simp [ht]
    cases kind with
    | framingError =>
      have hw : encode i = .one 0x23 := encode_hasForm (f := .z) (List.mem_singleton.1 hop) rfl
      simp [ht, FaultKind.code, hw]
    | checksumError =>
      have hw : encode i = .one 0x14 := encode_hasForm (f := .z) (List.mem_singleton.1 hop) rfl
      simp [ht, FaultKind.code, hw]
    | escapeError =>
      have hw : encode i = .one 0x21 ∨ encode i = .one 0x23 :=
        (List.mem_pair.1 hop).imp (encode_hasForm (f := .z) · rfl) (encode_hasForm (f := .z) · rfl)
      simpa [ht, FaultKind.code] using hw
    | bufferOverflow =>
      have hw : (∃ v, encode i = .two 0x03 v) ∨ encode i = .one 0x13 ∨ encode i = .one 0x20 ∨ encode i = .one 0x22 ∨
          (∃ a b, encode i = .three 0x43 a b) ∨ encode i = .one 0x45 := by
        simp only [FaultKind.raisers, List.mem_cons, List.not_mem_nil, or_false] at hop
        exact hop.imp (encode_hasForm (f := .b) · rfl) <| .imp (encode_hasForm (f := .z) · rfl) <|
          .imp (encode_hasForm (f := .z) · rfl) <| .imp (encode_hasForm (f := .z) · rfl) <|
          .imp (encode_hasForm (f := .h) · rfl) (encode_hasForm (f := .z) · rfl)
      simpa [ht, FaultKind.code] using hw
    | rangeError =>
      have hw : encode i = .one 0x45 := encode_hasForm (f := .z) (List.mem_singleton.1 hop) rfl
      simp [ht, FaultKind.code, hw]
    | illegalOp => cases hop

/-! ### Operations that never fault -/

/-- Settles O20: the opcode byte of none of the fourteen operations is in the column "raised by" of any fault. -/
theorem neverFaultingOperationsStayReady : Obligations.NeverFaultingOperationsStayReady := by
  intro i s hs hi
  obtain ⟨t, h, -⟩ := exec_answersSamePort i s
  by_cases hrst : i = .rst
  · subst hrst
    exact ⟨_, exec_rst s, rfl, rfl, rfl⟩
  · have hnever : ∀ kind : FaultKind, (encode i).opcode ∉ kind.raisers := by
      intro kind
      have hlisted : ∀ j ∈ [Instr.nop, .rst, .ibClr, .bufMov, .csInit, .csBuf, .evLoad, .plClr, .bsScan],
          (encode j).opcode ∉ kind.raisers := by
        cases kind <;> decide
      rcases hi with hmem | ⟨f, l, rfl⟩ | ⟨v, rfl⟩ | ⟨y, rfl⟩ | ⟨v, rfl⟩ | ⟨v, rfl⟩
      · exact hlisted i hmem
      all_goals cases kind <;> simp [FaultKind.raisers, encode, OpWord.opcode]
    rcases exec_completesOrFaults hrst h with ⟨hflt, hfop, hfinfo⟩ | ⟨e, hraises, -⟩
    · exact ⟨t, h, hflt.trans hs, by rw [if_neg hrst, hfop], by rw [if_neg hrst, hfinfo]⟩
    · exact absurd hraises.mem_raisers (hnever e.kind)

end Sys2Proof.Machine
end

section
/-! Reset: the reset input acts as `RST` (70_reset_and_hazards.md rules R250, R252). -/

namespace Sys2Proof.Machine

/-- Settles O8: the reset input does what `RST` does once that input is gone from the port, and, like every input that
resets, it acts whatever the fault registers hold. -/
theorem resetInputActsAsRst : Obligations.ResetInputActsAsRst := by
  intro s rest hin
  have hresets : Input.resetLine.resets = true := Input.resets_iff.2 (.inl rfl)
  constructor
  · exact step_resetLine_eq_exec_rst hin
  · exact step_of_resets hin hresets

end Sys2Proof.Machine
end
